-- ==== Sys2Proof/Word.lean ====
section
/-! DEFINITION. The word types of the core (00_scope.md R5, R7; XLEN = 32). -/

namespace Sys2Proof

/-- A byte of memory (R7). -/
abbrev Byte := BitVec 8

/-- A register value, an address, an instruction word: XLEN = 32 bits (R2, R5). -/
abbrev Word := BitVec 32

/-- A doubleword: a floating-point register (R30), a counter cell (R50), the widest memory value (R87). -/
abbrev Dword := BitVec 64

/-- The number of a general or floating-point register, 0 .. 31 (R131). -/
abbrev RegIdx := BitVec 5

/-- A 12-bit CSR number (R37). -/
abbrev CsrNum := BitVec 12

end Sys2Proof
end

