-- ==== Sys2Proof/Machine/Flags.lean ====
section
/-! DEFINITION. The core has no condition codes (10_state.md R62): what stands here are the comparison results (R171), the write
variants of the registers (R31 to R34) and the masks of the masked CSRs (R38, R39, R42). -/

namespace Sys2Proof.Machine

/-- Signed less-than: `s(a) < s(b)` (R7, R175, R186, R215). -/
def signedLess (a b : Word) : Bool := decide (a.toInt < b.toInt)

/-- Unsigned less-than: `u(a) < u(b)` (R7, R176, R187, R217). -/
def unsignedLess (a b : Word) : Bool := decide (a.toNat < b.toNat)

/-- A comparison's result as a word: exactly 1 or 0 (R171). -/
def boolWord (b : Bool) : Word := if b then 1#32 else 0#32

/-- The masked write variant; a 1 bit of the mask is protected (R33). -/
def maskedWrite (mask old v : Word) : Word := (old &&& mask) ||| (v &&& ~~~mask)

/-- The mask of `ustatus`: all bits but UIE (0) and UPIE (4) are protected (R39). -/
def ustatusMask : Word := 0xFFFFFFEE#32

/-- The mask of `fcsr`: bits 31:8 are protected (R42). -/
def fcsrMask : Word := 0xFFFFFF00#32

/-- `len` one bits. -/
def lowOnes (len : Nat) : Word := BitVec.ofNat 32 (2 ^ len - 1)

/-- A linked register's value: the slice `P[lo+len-1:lo]`, right-justified (R34). -/
def sliceRead (lo len : Nat) (p : Word) : Word := (p >>> lo) &&& lowOnes len

/-- What a write of `v` to a linked register writes to its backing register (R34). -/
def sliceWrite (lo len : Nat) (p v : Word) : Word := (p &&& ~~~(lowOnes len <<< lo)) ||| ((v &&& lowOnes len) <<< lo)

/-- UIE, the global interrupt-enable (R39). -/
def ustatusUie (v : Word) : Bool := v.getLsbD 0

/-- UPIE, the saved interrupt-enable (R39). -/
def ustatusUpie (v : Word) : Bool := v.getLsbD 4

end Sys2Proof.Machine
end

