-- ==== Sys2Proof/Syntax.lean ====
section
/-! DEFINITION. The instructions of the core: one constructor for each of the 57 rows of spec/opcode_table.json
(30_encoding.md R133). Operands are the encoded fields; offsets of branches and jumps are byte offsets (R132). -/

namespace Sys2Proof

/-- The admitted instructions (R2, R133). `rd`, `rs1`, `rs2` are register numbers, `imm` the format's immediate field. -/
inductive Instr where
  -- integer computational, 40_integer_computational.md
  | lui (rd : RegIdx) (imm : BitVec 20)
  | auipc (rd : RegIdx) (imm : BitVec 20)
  -- control transfer, 41_control_transfer.md
  | jal (rd : RegIdx) (offset : BitVec 21)
  | jalr (rd rs1 : RegIdx) (imm : BitVec 12)
  | beq (rs1 rs2 : RegIdx) (offset : BitVec 13)
  | bne (rs1 rs2 : RegIdx) (offset : BitVec 13)
  | blt (rs1 rs2 : RegIdx) (offset : BitVec 13)
  | bge (rs1 rs2 : RegIdx) (offset : BitVec 13)
  | bltu (rs1 rs2 : RegIdx) (offset : BitVec 13)
  | bgeu (rs1 rs2 : RegIdx) (offset : BitVec 13)
  -- loads and stores, 42_load_store.md
  | lb (rd rs1 : RegIdx) (imm : BitVec 12)
  | lh (rd rs1 : RegIdx) (imm : BitVec 12)
  | lw (rd rs1 : RegIdx) (imm : BitVec 12)
  | lbu (rd rs1 : RegIdx) (imm : BitVec 12)
  | lhu (rd rs1 : RegIdx) (imm : BitVec 12)
  | sb (rs2 rs1 : RegIdx) (imm : BitVec 12)
  | sh (rs2 rs1 : RegIdx) (imm : BitVec 12)
  | sw (rs2 rs1 : RegIdx) (imm : BitVec 12)
  -- integer computational, register-immediate
  | addi (rd rs1 : RegIdx) (imm : BitVec 12)
  | slti (rd rs1 : RegIdx) (imm : BitVec 12)
  | sltiu (rd rs1 : RegIdx) (imm : BitVec 12)
  | xori (rd rs1 : RegIdx) (imm : BitVec 12)
  | ori (rd rs1 : RegIdx) (imm : BitVec 12)
  | andi (rd rs1 : RegIdx) (imm : BitVec 12)
  | slli (rd rs1 : RegIdx) (shamt : BitVec 5)
  | srli (rd rs1 : RegIdx) (shamt : BitVec 5)
  | srai (rd rs1 : RegIdx) (shamt : BitVec 5)
  -- integer computational, register-register
  | add (rd rs1 rs2 : RegIdx)
  | sub (rd rs1 rs2 : RegIdx)
  | sll (rd rs1 rs2 : RegIdx)
  | slt (rd rs1 rs2 : RegIdx)
  | sltu (rd rs1 rs2 : RegIdx)
  | xor (rd rs1 rs2 : RegIdx)
  | srl (rd rs1 rs2 : RegIdx)
  | sra (rd rs1 rs2 : RegIdx)
  | or (rd rs1 rs2 : RegIdx)
  | and (rd rs1 rs2 : RegIdx)
  -- multiply and divide, 43_muldiv.md
  | mul (rd rs1 rs2 : RegIdx)
  | mulh (rd rs1 rs2 : RegIdx)
  | mulhsu (rd rs1 rs2 : RegIdx)
  | mulhu (rd rs1 rs2 : RegIdx)
  | div (rd rs1 rs2 : RegIdx)
  | divu (rd rs1 rs2 : RegIdx)
  | rem (rd rs1 rs2 : RegIdx)
  | remu (rd rs1 rs2 : RegIdx)
  -- system, 44_system.md; the ignored fields of the fences are kept so that decoding loses no bit (R138)
  | fence (fm pred succ : BitVec 4) (rs1 rd : RegIdx)
  | fenceI (imm : BitVec 12) (rs1 rd : RegIdx)
  | ecall
  | ebreak
  | uret
  | wfi
  | csrrw (rd : RegIdx) (csr : CsrNum) (rs1 : RegIdx)
  | csrrs (rd : RegIdx) (csr : CsrNum) (rs1 : RegIdx)
  | csrrc (rd : RegIdx) (csr : CsrNum) (rs1 : RegIdx)
  | csrrwi (rd : RegIdx) (csr : CsrNum) (uimm : BitVec 5)
  | csrrsi (rd : RegIdx) (csr : CsrNum) (uimm : BitVec 5)
  | csrrci (rd : RegIdx) (csr : CsrNum) (uimm : BitVec 5)
  deriving DecidableEq, Repr

end Sys2Proof
end

