-- ==== Sys2Proof/Decode.lean ====
section
/-! DEFINITION. The decoder and, after it, the encoder (30_encoding.md), and the byte-order helpers both sides of memory use
(20_memory.md R86). The decoder is a total function of the word; words that are no instruction are rejected by name (R134). -/

namespace Sys2Proof

/-! ## Byte order (R86): the byte at the lowest address holds bits 7:0. -/

/-- The number a list of bytes stands for, lowest address first (R86). -/
def leNat : List Byte → Nat
  | [] => 0
  | b :: bs => b.toNat + 256 * leNat bs

/-- The `n` bytes of the number `v`, lowest address first (R86). -/
def leBytes : Nat → Nat → List Byte
  | 0, _ => []
  | n + 1, v => BitVec.ofNat 8 v :: leBytes n (v / 256)

/-- The word of four bytes, `b0` at the lowest address (R86, R130). -/
def leWord (b0 b1 b2 b3 : Byte) : Word := b3 ++ b2 ++ b1 ++ b0

/-! ## Fields of the word (R131, R132) -/

def opcodeOf (w : Word) : BitVec 7 := w.extractLsb' 0 7
def rdOf (w : Word) : RegIdx := w.extractLsb' 7 5
def funct3Of (w : Word) : BitVec 3 := w.extractLsb' 12 3
def rs1Of (w : Word) : RegIdx := w.extractLsb' 15 5
def rs2Of (w : Word) : RegIdx := w.extractLsb' 20 5
def funct7Of (w : Word) : BitVec 7 := w.extractLsb' 25 7
/-- The I-format immediate field `w[31:20]`, also the CSR number (R131). -/
def immIOf (w : Word) : BitVec 12 := w.extractLsb' 20 12
/-- The S-format immediate field (R132). -/
def immSOf (w : Word) : BitVec 12 := w.extractLsb' 25 7 ++ w.extractLsb' 7 5
/-- The B-format byte offset, bit 0 zero (R132). -/
def offBOf (w : Word) : BitVec 13 :=
  w.extractLsb' 31 1 ++ w.extractLsb' 7 1 ++ w.extractLsb' 25 6 ++ w.extractLsb' 8 4 ++ 0#1
/-- The U-format immediate field `w[31:12]` (R132). -/
def immUOf (w : Word) : BitVec 20 := w.extractLsb' 12 20
/-- The J-format byte offset, bit 0 zero (R132). -/
def offJOf (w : Word) : BitVec 21 :=
  w.extractLsb' 31 1 ++ w.extractLsb' 12 8 ++ w.extractLsb' 20 1 ++ w.extractLsb' 21 10 ++ 0#1

/-! ## The decoder -/

/-- What a fetched word is (R134): an admitted instruction, or one of the three rejections by name. -/
inductive Decoded where
  | instr (i : Instr)
  | null
  | illegal
  | refused
  deriving DecidableEq, Repr

/-- The conditional branches (R133, opcode 1100011); funct3 010 and 011 are unused (R136 (c)). -/
def decodeBranch (w : Word) : Option Instr :=
  if funct3Of w = 0b000#3 then some (.beq (rs1Of w) (rs2Of w) (offBOf w))
  else if funct3Of w = 0b001#3 then some (.bne (rs1Of w) (rs2Of w) (offBOf w))
  else if funct3Of w = 0b100#3 then some (.blt (rs1Of w) (rs2Of w) (offBOf w))
  else if funct3Of w = 0b101#3 then some (.bge (rs1Of w) (rs2Of w) (offBOf w))
  else if funct3Of w = 0b110#3 then some (.bltu (rs1Of w) (rs2Of w) (offBOf w))
  else if funct3Of w = 0b111#3 then some (.bgeu (rs1Of w) (rs2Of w) (offBOf w))
  else none

/-- The loads (R133, opcode 0000011). -/
def decodeLoad (w : Word) : Option Instr :=
  if funct3Of w = 0b000#3 then some (.lb (rdOf w) (rs1Of w) (immIOf w))
  else if funct3Of w = 0b001#3 then some (.lh (rdOf w) (rs1Of w) (immIOf w))
  else if funct3Of w = 0b010#3 then some (.lw (rdOf w) (rs1Of w) (immIOf w))
  else if funct3Of w = 0b100#3 then some (.lbu (rdOf w) (rs1Of w) (immIOf w))
  else if funct3Of w = 0b101#3 then some (.lhu (rdOf w) (rs1Of w) (immIOf w))
  else none

/-- The stores (R133, opcode 0100011). -/
def decodeStore (w : Word) : Option Instr :=
  if funct3Of w = 0b000#3 then some (.sb (rs2Of w) (rs1Of w) (immSOf w))
  else if funct3Of w = 0b001#3 then some (.sh (rs2Of w) (rs1Of w) (immSOf w))
  else if funct3Of w = 0b010#3 then some (.sw (rs2Of w) (rs1Of w) (immSOf w))
  else none

/-- The register-immediate instructions (R133, opcode 0010011); the shifts check `w[31:25]` (R136 (e)). -/
def decodeOpImm (w : Word) : Option Instr :=
  if funct3Of w = 0b000#3 then some (.addi (rdOf w) (rs1Of w) (immIOf w))
  else if funct3Of w = 0b010#3 then some (.slti (rdOf w) (rs1Of w) (immIOf w))
  else if funct3Of w = 0b011#3 then some (.sltiu (rdOf w) (rs1Of w) (immIOf w))
  else if funct3Of w = 0b100#3 then some (.xori (rdOf w) (rs1Of w) (immIOf w))
  else if funct3Of w = 0b110#3 then some (.ori (rdOf w) (rs1Of w) (immIOf w))
  else if funct3Of w = 0b111#3 then some (.andi (rdOf w) (rs1Of w) (immIOf w))
  else if funct3Of w = 0b001#3 then
    if funct7Of w = 0b0000000#7 then some (.slli (rdOf w) (rs1Of w) (rs2Of w)) else none
  else if funct7Of w = 0b0000000#7 then some (.srli (rdOf w) (rs1Of w) (rs2Of w))
  else if funct7Of w = 0b0100000#7 then some (.srai (rdOf w) (rs1Of w) (rs2Of w))
  else none

/-- The register-register instructions with funct7 0000000 (R133). -/
def decodeOpBase (w : Word) : Option Instr :=
  if funct3Of w = 0b000#3 then some (.add (rdOf w) (rs1Of w) (rs2Of w))
  else if funct3Of w = 0b001#3 then some (.sll (rdOf w) (rs1Of w) (rs2Of w))
  else if funct3Of w = 0b010#3 then some (.slt (rdOf w) (rs1Of w) (rs2Of w))
  else if funct3Of w = 0b011#3 then some (.sltu (rdOf w) (rs1Of w) (rs2Of w))
  else if funct3Of w = 0b100#3 then some (.xor (rdOf w) (rs1Of w) (rs2Of w))
  else if funct3Of w = 0b101#3 then some (.srl (rdOf w) (rs1Of w) (rs2Of w))
  else if funct3Of w = 0b110#3 then some (.or (rdOf w) (rs1Of w) (rs2Of w))
  else some (.and (rdOf w) (rs1Of w) (rs2Of w))

/-- The register-register instructions with funct7 0100000 (R133, R136 (d)). -/
def decodeOpAlt (w : Word) : Option Instr :=
  if funct3Of w = 0b000#3 then some (.sub (rdOf w) (rs1Of w) (rs2Of w))
  else if funct3Of w = 0b101#3 then some (.sra (rdOf w) (rs1Of w) (rs2Of w))
  else none

/-- The multiply and divide instructions, funct7 0000001 (R133). -/
def decodeMulDiv (w : Word) : Option Instr :=
  if funct3Of w = 0b000#3 then some (.mul (rdOf w) (rs1Of w) (rs2Of w))
  else if funct3Of w = 0b001#3 then some (.mulh (rdOf w) (rs1Of w) (rs2Of w))
  else if funct3Of w = 0b010#3 then some (.mulhsu (rdOf w) (rs1Of w) (rs2Of w))
  else if funct3Of w = 0b011#3 then some (.mulhu (rdOf w) (rs1Of w) (rs2Of w))
  else if funct3Of w = 0b100#3 then some (.div (rdOf w) (rs1Of w) (rs2Of w))
  else if funct3Of w = 0b101#3 then some (.divu (rdOf w) (rs1Of w) (rs2Of w))
  else if funct3Of w = 0b110#3 then some (.rem (rdOf w) (rs1Of w) (rs2Of w))
  else some (.remu (rdOf w) (rs1Of w) (rs2Of w))

/-- The major opcode OP (R133, opcode 0110011; R136 (d)). -/
def decodeOp (w : Word) : Option Instr :=
  if funct7Of w = 0b0000000#7 then decodeOpBase w
  else if funct7Of w = 0b0100000#7 then decodeOpAlt w
  else if funct7Of w = 0b0000001#7 then decodeMulDiv w
  else none

/-- The fences (R133, opcode 0001111): every other field is ignored, and kept in the syntax (R138). -/
def decodeMiscMem (w : Word) : Option Instr :=
  if funct3Of w = 0b000#3 then
    some (.fence (w.extractLsb' 28 4) (w.extractLsb' 24 4) (w.extractLsb' 20 4) (rs1Of w) (rdOf w))
  else if funct3Of w = 0b001#3 then some (.fenceI (immIOf w) (rs1Of w) (rdOf w))
  else none

/-- The major opcode SYSTEM (R133, opcode 1110011; R136 (c), (f)). -/
def decodeSystem (w : Word) : Option Instr :=
  if funct3Of w = 0b001#3 then some (.csrrw (rdOf w) (immIOf w) (rs1Of w))
  else if funct3Of w = 0b010#3 then some (.csrrs (rdOf w) (immIOf w) (rs1Of w))
  else if funct3Of w = 0b011#3 then some (.csrrc (rdOf w) (immIOf w) (rs1Of w))
  else if funct3Of w = 0b101#3 then some (.csrrwi (rdOf w) (immIOf w) (rs1Of w))
  else if funct3Of w = 0b110#3 then some (.csrrsi (rdOf w) (immIOf w) (rs1Of w))
  else if funct3Of w = 0b111#3 then some (.csrrci (rdOf w) (immIOf w) (rs1Of w))
  else if w = 0x00000073#32 then some .ecall
  else if w = 0x00100073#32 then some .ebreak
  else if w = 0x00200073#32 then some .uret
  else if w = 0x10500073#32 then some .wfi
  else none

/-- Step 2 of R134: the admitted instruction a word is, if it is one (R133). -/
def decodeAdmitted (w : Word) : Option Instr :=
  if opcodeOf w = 0b0110111#7 then some (.lui (rdOf w) (immUOf w))
  else if opcodeOf w = 0b0010111#7 then some (.auipc (rdOf w) (immUOf w))
  else if opcodeOf w = 0b1101111#7 then some (.jal (rdOf w) (offJOf w))
  else if opcodeOf w = 0b1100111#7 then
    if funct3Of w = 0b000#3 then some (.jalr (rdOf w) (rs1Of w) (immIOf w)) else none
  else if opcodeOf w = 0b1100011#7 then decodeBranch w
  else if opcodeOf w = 0b0000011#7 then decodeLoad w
  else if opcodeOf w = 0b0100011#7 then decodeStore w
  else if opcodeOf w = 0b0010011#7 then decodeOpImm w
  else if opcodeOf w = 0b0110011#7 then decodeOp w
  else if opcodeOf w = 0b0001111#7 then decodeMiscMem w
  else if opcodeOf w = 0b1110011#7 then decodeSystem w
  else none

/-- The refused major opcodes: LOAD-FP, STORE-FP, MADD, MSUB, NMSUB, NMADD, OP-FP, AMO (R137). -/
def refusedOpcodes : List (BitVec 7) :=
  [0b0000111#7, 0b0100111#7, 0b1000011#7, 0b1000111#7, 0b1001011#7, 0b1001111#7, 0b1010011#7, 0b0101111#7]

/-- The decoder, in the order of R134. -/
def decode (w : Word) : Decoded :=
  if w = 0x00000000#32 then .null
  else
    match decodeAdmitted w with
    | some i => .instr i
    | none => if opcodeOf w ∈ refusedOpcodes then .refused else .illegal

/-- The decoder on four bytes as memory holds them, the lowest address first (R86, R130). -/
def decodeBytes (b0 b1 b2 b3 : Byte) : Decoded := decode (leWord b0 b1 b2 b3)

/-- The instruction the decoder reads from an instruction whose bits are `w`, numbered as the opcode table numbers them; the bits
above `nbits` are 0. The word is laid out in memory's byte order and given to the decoder. -/
def decodeTableWord (nbits w : Nat) : Option Instr :=
  let v : Word := BitVec.ofNat 32 (w % 2 ^ nbits)
  match decodeBytes (v.extractLsb' 0 8) (v.extractLsb' 8 8) (v.extractLsb' 16 8) (v.extractLsb' 24 8) with
  | .instr i => some i
  | .null | .illegal | .refused => none

/-! ## The encoder (R131, R132, R133) -/

/-- Format R (R131). -/
def encR (funct7 : BitVec 7) (rs2 rs1 : RegIdx) (funct3 : BitVec 3) (rd : RegIdx) (opcode : BitVec 7) : Word :=
  funct7 ++ rs2 ++ rs1 ++ funct3 ++ rd ++ opcode

/-- Format I (R131). -/
def encI (imm : BitVec 12) (rs1 : RegIdx) (funct3 : BitVec 3) (rd : RegIdx) (opcode : BitVec 7) : Word :=
  imm ++ rs1 ++ funct3 ++ rd ++ opcode

/-- Format S (R131). -/
def encS (imm : BitVec 12) (rs2 rs1 : RegIdx) (funct3 : BitVec 3) (opcode : BitVec 7) : Word :=
  imm.extractLsb' 5 7 ++ rs2 ++ rs1 ++ funct3 ++ imm.extractLsb' 0 5 ++ opcode

/-- Format B (R131): `imm[12], imm[10:5]` above, `imm[4:1], imm[11]` below; bit 0 of the offset is not encoded. -/
def encB (off : BitVec 13) (rs2 rs1 : RegIdx) (funct3 : BitVec 3) (opcode : BitVec 7) : Word :=
  off.extractLsb' 12 1 ++ off.extractLsb' 5 6 ++ rs2 ++ rs1 ++ funct3 ++ off.extractLsb' 1 4 ++ off.extractLsb' 11 1
    ++ opcode

/-- Format U (R131). -/
def encU (imm : BitVec 20) (rd : RegIdx) (opcode : BitVec 7) : Word := imm ++ rd ++ opcode

/-- Format J (R131): `imm[20], imm[10:1], imm[11], imm[19:12]`; bit 0 of the offset is not encoded. -/
def encJ (off : BitVec 21) (rd : RegIdx) (opcode : BitVec 7) : Word :=
  off.extractLsb' 20 1 ++ off.extractLsb' 1 10 ++ off.extractLsb' 11 1 ++ off.extractLsb' 12 8 ++ rd ++ opcode

/-- The word of an instruction (R133). For a well-formed instruction it decodes to that instruction. -/
def encode : Instr → Word
  | .lui rd imm => encU imm rd 0b0110111#7
  | .auipc rd imm => encU imm rd 0b0010111#7
  | .jal rd off => encJ off rd 0b1101111#7
  | .jalr rd rs1 imm => encI imm rs1 0b000#3 rd 0b1100111#7
  | .beq rs1 rs2 off => encB off rs2 rs1 0b000#3 0b1100011#7
  | .bne rs1 rs2 off => encB off rs2 rs1 0b001#3 0b1100011#7
  | .blt rs1 rs2 off => encB off rs2 rs1 0b100#3 0b1100011#7
  | .bge rs1 rs2 off => encB off rs2 rs1 0b101#3 0b1100011#7
  | .bltu rs1 rs2 off => encB off rs2 rs1 0b110#3 0b1100011#7
  | .bgeu rs1 rs2 off => encB off rs2 rs1 0b111#3 0b1100011#7
  | .lb rd rs1 imm => encI imm rs1 0b000#3 rd 0b0000011#7
  | .lh rd rs1 imm => encI imm rs1 0b001#3 rd 0b0000011#7
  | .lw rd rs1 imm => encI imm rs1 0b010#3 rd 0b0000011#7
  | .lbu rd rs1 imm => encI imm rs1 0b100#3 rd 0b0000011#7
  | .lhu rd rs1 imm => encI imm rs1 0b101#3 rd 0b0000011#7
  | .sb rs2 rs1 imm => encS imm rs2 rs1 0b000#3 0b0100011#7
  | .sh rs2 rs1 imm => encS imm rs2 rs1 0b001#3 0b0100011#7
  | .sw rs2 rs1 imm => encS imm rs2 rs1 0b010#3 0b0100011#7
  | .addi rd rs1 imm => encI imm rs1 0b000#3 rd 0b0010011#7
  | .slti rd rs1 imm => encI imm rs1 0b010#3 rd 0b0010011#7
  | .sltiu rd rs1 imm => encI imm rs1 0b011#3 rd 0b0010011#7
  | .xori rd rs1 imm => encI imm rs1 0b100#3 rd 0b0010011#7
  | .ori rd rs1 imm => encI imm rs1 0b110#3 rd 0b0010011#7
  | .andi rd rs1 imm => encI imm rs1 0b111#3 rd 0b0010011#7
  | .slli rd rs1 shamt => encR 0b0000000#7 shamt rs1 0b001#3 rd 0b0010011#7
  | .srli rd rs1 shamt => encR 0b0000000#7 shamt rs1 0b101#3 rd 0b0010011#7
  | .srai rd rs1 shamt => encR 0b0100000#7 shamt rs1 0b101#3 rd 0b0010011#7
  | .add rd rs1 rs2 => encR 0b0000000#7 rs2 rs1 0b000#3 rd 0b0110011#7
  | .sub rd rs1 rs2 => encR 0b0100000#7 rs2 rs1 0b000#3 rd 0b0110011#7
  | .sll rd rs1 rs2 => encR 0b0000000#7 rs2 rs1 0b001#3 rd 0b0110011#7
  | .slt rd rs1 rs2 => encR 0b0000000#7 rs2 rs1 0b010#3 rd 0b0110011#7
  | .sltu rd rs1 rs2 => encR 0b0000000#7 rs2 rs1 0b011#3 rd 0b0110011#7
  | .xor rd rs1 rs2 => encR 0b0000000#7 rs2 rs1 0b100#3 rd 0b0110011#7
  | .srl rd rs1 rs2 => encR 0b0000000#7 rs2 rs1 0b101#3 rd 0b0110011#7
  | .sra rd rs1 rs2 => encR 0b0100000#7 rs2 rs1 0b101#3 rd 0b0110011#7
  | .or rd rs1 rs2 => encR 0b0000000#7 rs2 rs1 0b110#3 rd 0b0110011#7
  | .and rd rs1 rs2 => encR 0b0000000#7 rs2 rs1 0b111#3 rd 0b0110011#7
  | .mul rd rs1 rs2 => encR 0b0000001#7 rs2 rs1 0b000#3 rd 0b0110011#7
  | .mulh rd rs1 rs2 => encR 0b0000001#7 rs2 rs1 0b001#3 rd 0b0110011#7
  | .mulhsu rd rs1 rs2 => encR 0b0000001#7 rs2 rs1 0b010#3 rd 0b0110011#7
  | .mulhu rd rs1 rs2 => encR 0b0000001#7 rs2 rs1 0b011#3 rd 0b0110011#7
  | .div rd rs1 rs2 => encR 0b0000001#7 rs2 rs1 0b100#3 rd 0b0110011#7
  | .divu rd rs1 rs2 => encR 0b0000001#7 rs2 rs1 0b101#3 rd 0b0110011#7
  | .rem rd rs1 rs2 => encR 0b0000001#7 rs2 rs1 0b110#3 rd 0b0110011#7
  | .remu rd rs1 rs2 => encR 0b0000001#7 rs2 rs1 0b111#3 rd 0b0110011#7
  | .fence fm pred succ rs1 rd => encI (fm ++ pred ++ succ) rs1 0b000#3 rd 0b0001111#7
  | .fenceI imm rs1 rd => encI imm rs1 0b001#3 rd 0b0001111#7
  | .ecall => encI 0x000#12 0#5 0b000#3 0#5 0b1110011#7
  | .ebreak => encI 0x001#12 0#5 0b000#3 0#5 0b1110011#7
  | .uret => encI 0x002#12 0#5 0b000#3 0#5 0b1110011#7
  | .wfi => encI 0x105#12 0#5 0b000#3 0#5 0b1110011#7
  | .csrrw rd csr rs1 => encI csr rs1 0b001#3 rd 0b1110011#7
  | .csrrs rd csr rs1 => encI csr rs1 0b010#3 rd 0b1110011#7
  | .csrrc rd csr rs1 => encI csr rs1 0b011#3 rd 0b1110011#7
  | .csrrwi rd csr uimm => encI csr uimm 0b101#3 rd 0b1110011#7
  | .csrrsi rd csr uimm => encI csr uimm 0b110#3 rd 0b1110011#7
  | .csrrci rd csr uimm => encI csr uimm 0b111#3 rd 0b1110011#7

/-! ## The opcode map as data (R133), for statements about the decoder -/

/-- One row of the opcode map: a word `w` selects it when `w &&& mask = pattern` (R133). -/
structure OpcodeRow where
  mnemonic : String
  pattern : Word
  mask : Word
  deriving DecidableEq, Repr

/-- Does a word select the row (R133)? -/
def OpcodeRow.selects (r : OpcodeRow) (w : Word) : Bool := w &&& r.mask == r.pattern

/-- The opcode map of R133, part 1 of 5. -/
def opcodeMapA : List OpcodeRow :=
  [ ⟨"LUI", 0x00000037#32, 0x0000007F#32⟩
  , ⟨"AUIPC", 0x00000017#32, 0x0000007F#32⟩
  , ⟨"JAL", 0x0000006F#32, 0x0000007F#32⟩
  , ⟨"JALR", 0x00000067#32, 0x0000707F#32⟩
  , ⟨"BEQ", 0x00000063#32, 0x0000707F#32⟩
  , ⟨"BNE", 0x00001063#32, 0x0000707F#32⟩
  , ⟨"BLT", 0x00004063#32, 0x0000707F#32⟩
  , ⟨"BGE", 0x00005063#32, 0x0000707F#32⟩
  , ⟨"BLTU", 0x00006063#32, 0x0000707F#32⟩
  , ⟨"BGEU", 0x00007063#32, 0x0000707F#32⟩
  , ⟨"LB", 0x00000003#32, 0x0000707F#32⟩
  , ⟨"LH", 0x00001003#32, 0x0000707F#32⟩ ]

/-- The opcode map of R133, part 2 of 5. -/
def opcodeMapB : List OpcodeRow :=
  [ ⟨"LW", 0x00002003#32, 0x0000707F#32⟩
  , ⟨"LBU", 0x00004003#32, 0x0000707F#32⟩
  , ⟨"LHU", 0x00005003#32, 0x0000707F#32⟩
  , ⟨"SB", 0x00000023#32, 0x0000707F#32⟩
  , ⟨"SH", 0x00001023#32, 0x0000707F#32⟩
  , ⟨"SW", 0x00002023#32, 0x0000707F#32⟩
  , ⟨"ADDI", 0x00000013#32, 0x0000707F#32⟩
  , ⟨"SLTI", 0x00002013#32, 0x0000707F#32⟩
  , ⟨"SLTIU", 0x00003013#32, 0x0000707F#32⟩
  , ⟨"XORI", 0x00004013#32, 0x0000707F#32⟩
  , ⟨"ORI", 0x00006013#32, 0x0000707F#32⟩
  , ⟨"ANDI", 0x00007013#32, 0x0000707F#32⟩ ]

/-- The opcode map of R133, part 3 of 5. -/
def opcodeMapC : List OpcodeRow :=
  [ ⟨"SLLI", 0x00001013#32, 0xFE00707F#32⟩
  , ⟨"SRLI", 0x00005013#32, 0xFE00707F#32⟩
  , ⟨"SRAI", 0x40005013#32, 0xFE00707F#32⟩
  , ⟨"ADD", 0x00000033#32, 0xFE00707F#32⟩
  , ⟨"SUB", 0x40000033#32, 0xFE00707F#32⟩
  , ⟨"SLL", 0x00001033#32, 0xFE00707F#32⟩
  , ⟨"SLT", 0x00002033#32, 0xFE00707F#32⟩
  , ⟨"SLTU", 0x00003033#32, 0xFE00707F#32⟩
  , ⟨"XOR", 0x00004033#32, 0xFE00707F#32⟩
  , ⟨"SRL", 0x00005033#32, 0xFE00707F#32⟩
  , ⟨"SRA", 0x40005033#32, 0xFE00707F#32⟩
  , ⟨"OR", 0x00006033#32, 0xFE00707F#32⟩ ]

/-- The opcode map of R133, part 4 of 5. -/
def opcodeMapD : List OpcodeRow :=
  [ ⟨"AND", 0x00007033#32, 0xFE00707F#32⟩
  , ⟨"MUL", 0x02000033#32, 0xFE00707F#32⟩
  , ⟨"MULH", 0x02001033#32, 0xFE00707F#32⟩
  , ⟨"MULHSU", 0x02002033#32, 0xFE00707F#32⟩
  , ⟨"MULHU", 0x02003033#32, 0xFE00707F#32⟩
  , ⟨"DIV", 0x02004033#32, 0xFE00707F#32⟩
  , ⟨"DIVU", 0x02005033#32, 0xFE00707F#32⟩
  , ⟨"REM", 0x02006033#32, 0xFE00707F#32⟩
  , ⟨"REMU", 0x02007033#32, 0xFE00707F#32⟩
  , ⟨"FENCE", 0x0000000F#32, 0x0000707F#32⟩
  , ⟨"FENCE.I", 0x0000100F#32, 0x0000707F#32⟩
  , ⟨"ECALL", 0x00000073#32, 0xFFFFFFFF#32⟩ ]

/-- The opcode map of R133, part 5 of 5. -/
def opcodeMapE : List OpcodeRow :=
  [ ⟨"EBREAK", 0x00100073#32, 0xFFFFFFFF#32⟩
  , ⟨"URET", 0x00200073#32, 0xFFFFFFFF#32⟩
  , ⟨"WFI", 0x10500073#32, 0xFFFFFFFF#32⟩
  , ⟨"CSRRW", 0x00001073#32, 0x0000707F#32⟩
  , ⟨"CSRRS", 0x00002073#32, 0x0000707F#32⟩
  , ⟨"CSRRC", 0x00003073#32, 0x0000707F#32⟩
  , ⟨"CSRRWI", 0x00005073#32, 0x0000707F#32⟩
  , ⟨"CSRRSI", 0x00006073#32, 0x0000707F#32⟩
  , ⟨"CSRRCI", 0x00007073#32, 0x0000707F#32⟩ ]

/-- The opcode map of R133: 57 rows. -/
def opcodeMap : List OpcodeRow := opcodeMapA ++ opcodeMapB ++ opcodeMapC ++ opcodeMapD ++ opcodeMapE

/-- The mnemonic of an instruction, as spec/opcode_table.json spells it. -/
def Instr.mnemonic : Instr → String
  | .lui .. => "LUI"
  | .auipc .. => "AUIPC"
  | .jal .. => "JAL"
  | .jalr .. => "JALR"
  | .beq .. => "BEQ"
  | .bne .. => "BNE"
  | .blt .. => "BLT"
  | .bge .. => "BGE"
  | .bltu .. => "BLTU"
  | .bgeu .. => "BGEU"
  | .lb .. => "LB"
  | .lh .. => "LH"
  | .lw .. => "LW"
  | .lbu .. => "LBU"
  | .lhu .. => "LHU"
  | .sb .. => "SB"
  | .sh .. => "SH"
  | .sw .. => "SW"
  | .addi .. => "ADDI"
  | .slti .. => "SLTI"
  | .sltiu .. => "SLTIU"
  | .xori .. => "XORI"
  | .ori .. => "ORI"
  | .andi .. => "ANDI"
  | .slli .. => "SLLI"
  | .srli .. => "SRLI"
  | .srai .. => "SRAI"
  | .add .. => "ADD"
  | .sub .. => "SUB"
  | .sll .. => "SLL"
  | .slt .. => "SLT"
  | .sltu .. => "SLTU"
  | .xor .. => "XOR"
  | .srl .. => "SRL"
  | .sra .. => "SRA"
  | .or .. => "OR"
  | .and .. => "AND"
  | .mul .. => "MUL"
  | .mulh .. => "MULH"
  | .mulhsu .. => "MULHSU"
  | .mulhu .. => "MULHU"
  | .div .. => "DIV"
  | .divu .. => "DIVU"
  | .rem .. => "REM"
  | .remu .. => "REMU"
  | .fence .. => "FENCE"
  | .fenceI .. => "FENCE.I"
  | .ecall .. => "ECALL"
  | .ebreak .. => "EBREAK"
  | .uret .. => "URET"
  | .wfi .. => "WFI"
  | .csrrw .. => "CSRRW"
  | .csrrs .. => "CSRRS"
  | .csrrc .. => "CSRRC"
  | .csrrwi .. => "CSRRWI"
  | .csrrsi .. => "CSRRSI"
  | .csrrci .. => "CSRRCI"

end Sys2Proof
end

