-- ==== Sys2Proof/Config.lean ====
section
/-! DEFINITION. The parameters of the launch (00_scope.md R5), the memory configuration (20_memory.md R81, R82), the environment's
interface types (44_system.md R273), and the free values: opaque constants, of which nothing can be proved (guide: what the
manual leaves undefined). -/

namespace Sys2Proof

/-- The widths of a memory access: 1, 2, 4, 8 bytes (R87). -/
inductive Width where
  | byte | half | word | double
  deriving DecidableEq, Repr

/-- The number of bytes of an access (R87). -/
def Width.bytes : Width → Nat
  | .byte => 1
  | .half => 2
  | .word => 4
  | .double => 8

/-- The memory configuration `MEMCFG`: sixteen addresses (R81, fields in the rule's order). -/
structure MemConfig where
  textBase : Word
  textLimit : Word
  dataSegBase : Word
  dataSegLimit : Word
  externBase : Word
  globalPointer : Word
  dataBase : Word
  heapBase : Word
  stackPointer : Word
  stackBase : Word
  stackLimit : Word
  userHigh : Word
  kernelBase : Word
  kernelHigh : Word
  mmioBase : Word
  mmioLimit : Word
  deriving DecidableEq, Repr, Inhabited

/-- The Default preset (R82). -/
def MemConfig.default : MemConfig where
  textBase := 0x00400000#32
  textLimit := 0x0FFFFFFC#32
  dataSegBase := 0x10000000#32
  dataSegLimit := 0x7FFFFFFF#32
  externBase := 0x10000000#32
  globalPointer := 0x10008000#32
  dataBase := 0x10010000#32
  heapBase := 0x10040000#32
  stackPointer := 0x7FFFEFFC#32
  stackBase := 0x7FFFFFFC#32
  stackLimit := 0x10040000#32
  userHigh := 0x7FFFFFFF#32
  kernelBase := 0x80000000#32
  kernelHigh := 0xFFFFFFFF#32
  mmioBase := 0xFFFF0000#32
  mmioLimit := 0xFFFFFFFF#32

/-- The CompactDataAtZero preset (R82). -/
def MemConfig.compactDataAtZero : MemConfig where
  textBase := 0x00003000#32
  textLimit := 0x00003FFC#32
  dataSegBase := 0x00000000#32
  dataSegLimit := 0x00002FFF#32
  externBase := 0x00001000#32
  globalPointer := 0x00001800#32
  dataBase := 0x00000000#32
  heapBase := 0x00002000#32
  stackPointer := 0x00002FFC#32
  stackBase := 0x00002FFC#32
  stackLimit := 0x00002000#32
  userHigh := 0x00003FFF#32
  kernelBase := 0x00004000#32
  kernelHigh := 0x00007FFF#32
  mmioBase := 0x00007F00#32
  mmioLimit := 0x00007FFF#32

/-- The CompactTextAtZero preset (R82). -/
def MemConfig.compactTextAtZero : MemConfig where
  textBase := 0x00000000#32
  textLimit := 0x00000FFC#32
  dataSegBase := 0x00001000#32
  dataSegLimit := 0x00003FFF#32
  externBase := 0x00001000#32
  globalPointer := 0x00001800#32
  dataBase := 0x00002000#32
  heapBase := 0x00003000#32
  stackPointer := 0x00003FFC#32
  stackBase := 0x00003FFC#32
  stackLimit := 0x00003000#32
  userHigh := 0x00003FFF#32
  kernelBase := 0x00004000#32
  kernelHigh := 0x00007FFF#32
  mmioBase := 0x00007F00#32
  mmioLimit := 0x00007FFF#32

/-- `HALF_ALIGN` (R5, R88). -/
inductive HalfAlign where
  | required | free
  deriving DecidableEq, Repr

/-- `KERNEL_POLICY` (R5, R85). -/
inductive KernelPolicy where
  | rw | fault
  deriving DecidableEq, Repr

/-- `TEXT_LOAD_POLICY` (R5, R85). -/
inductive TextLoadPolicy where
  | allow | faultUnlessSmc
  deriving DecidableEq, Repr

/-- One memory or heap operation that the environment performs during an `ECALL` (R273). -/
inductive EnvAccess where
  | read (a : Word) (w : Width)
  | write (a : Word) (w : Width) (v : Dword)
  | alloc (numBytes : Int)
  deriving DecidableEq, Repr

/-- The outcome of the environment (R272, R273): Continue with register values, floating-point values and accesses; Exit; Raise. -/
inductive EnvOutcome where
  | continues (xs : List (RegIdx × Word)) (fs : List (RegIdx × Dword)) (accesses : List EnvAccess)
  | exit (code : Word)
  | raise (cause value : Word)
  deriving DecidableEq, Repr, Inhabited

/-- What the environment can read of the core: the two register files, memory and the heap pointer (R273). It cannot read `pc`,
a CSR, the controller or the run-control state. -/
structure EnvView where
  x : Vector Word 32
  f : Vector Dword 32
  mem : List Host.Cell
  heapPtr : Word
  deriving DecidableEq, Repr

/-- `ENV` (R5, R273, R274). `reference` is `ENV_REF`; `exitArgument` always answers `Exit(x[10])` (the other environment R274
names); `always o` answers `o`; `free` answers what nothing constrains, `Config.envAnswer`. DESIGN CHOICE, safe, log 12. -/
inductive EnvChoice where
  | reference
  | exitArgument
  | always (o : EnvOutcome)
  | free
  deriving DecidableEq, Repr

/-- `STACK_FLOOR` (R5, R95): the current `x[2]`, a fixed address, or an unconstrained function of the state.
DESIGN CHOICE, safe, log 14. -/
inductive StackFloor where
  | currentSp
  | fixed (a : Word)
  | free
  deriving DecidableEq, Repr

/-- The parameters of the launch (R5). `uretUpieAfter` is the bit `URET_UPIE_AFTER`. -/
structure Params where
  memcfg : MemConfig
  smcEnabled : Bool
  entryPc : Word
  env : EnvChoice
  kernelPolicy : KernelPolicy
  textLoadPolicy : TextLoadPolicy
  halfAlign : HalfAlign
  uretUpieAfter : Bool
  stackFloor : StackFloor
  deriving DecidableEq, Repr

/-- Every parameter at its default (R5, with the Default preset of R82). DESIGN CHOICE of the preset, log 1. -/
def Params.default : Params where
  memcfg := MemConfig.default
  smcEnabled := false
  entryPc := MemConfig.default.textBase
  env := .reference
  kernelPolicy := .rw
  textLoadPolicy := .allow
  halfAlign := .required
  uretUpieAfter := false
  stackFloor := .currentSp

/-- The eight halt reasons (R303). -/
inductive HaltReason where
  | normalTermination
  | cliffTermination
  | exception
  | breakpoint
  | maxSteps
  | stop
  | pause
  | invariantViolation
  deriving DecidableEq, Repr, Inhabited

/-! ## Free values (log 3): each is applied to the counter `draws` of State, which every draw advances. -/

/-- `TIME_SOURCE`: an unconstrained 64-bit draw (R51, U4). Safe, log 4. -/
opaque Config.timeSource : Nat → BitVec 64

/-- `pc` after a halt into TERMINATED: any value (R301, U6). Safe, log 5. -/
opaque Config.freePc : Nat → BitVec 32

/-- `exit_code` where the halt reason does not define it: any value (R303, U5). Safe, log 6. -/
opaque Config.freeExitCode : Nat → BitVec 32

/-- `fault_pc` where the halt reason does not define it: any value (R303, U5). Safe, log 6. -/
opaque Config.freeFaultPc : Nat → BitVec 32

/-- `fault_cause` where the halt reason does not define it: any value (R303, U5). Safe, log 6. -/
opaque Config.freeFaultCause : Nat → BitVec 32

/-- `fault_value` where the halt reason does not define it: any value (R303, U5). Safe, log 6. -/
opaque Config.freeFaultValue : Nat → BitVec 32

/-- `halt_reason` after a reset and before the first halt: any value (R61, U5). Safe, log 6. -/
opaque Config.freeHaltReason : Nat → HaltReason

/-- The answer of an environment of which nothing is known (R273, U18). Safe, log 12. -/
opaque Config.envAnswer : Nat → EnvView → EnvOutcome

/-- The stack floor of which nothing is known (R95, U16). Safe, log 14. -/
opaque Config.stackFloor : Nat → EnvView → BitVec 32

end Sys2Proof
end

