-- ==== Sys2Proof/Machine/State.lean ====
section
/-! DEFINITION. The state of the core as plain data (10_state.md), with the reasons a step can stop, and the state after reset
(R61). INVENTORY.md lists every field with its rule and reset value. -/

namespace Sys2Proof.Machine

/-- Why the machine stops with a fault (R11 (b)). Both are raised by `step` only, when a core that a halt has left TERMINATED is
asked for another step and no outside agent acts. -/
inductive Fault where
  /-- The run ended with EXCEPTION (R303, U8). Raised by `idleStep`. Safe: the machine stops where nothing goes on. Log 10. -/
  | unhandledException
  /-- The run ended with INVARIANT_VIOLATION (R353, U7). Raised by `idleStep`. Safe. Log 10. -/
  | invariantViolation
  deriving DecidableEq, Repr

/-- Why the model gives a step no meaning. -/
inductive Refusal where
  /-- An instruction without a meaning in this model. Raised by `exec` only; no arm raises it now. Safe. -/
  | notModelled (mnemonic : String)
  /-- A word with a floating-point or atomic major opcode is executed (R137, R309, U1). Raised by `execWord`. Safe. -/
  | refusedOpcode
  /-- An interrupt is taken while `utvec.MODE != 0` (R362, U2). Raised by `enterTrap`. Safe. -/
  | reservedVectorMode
  /-- `setMemoryConfiguration` is given a record that is not well-formed (R83, R405, U19). Raised by `applyPort`. Safe. Log 15. -/
  | illFormedConfiguration
  /-- `load` is given a byte outside every segment (R404, U20). Raised by `applyPort`. Safe. Log 15. -/
  | illFormedImage
  deriving DecidableEq, Repr

/-- Memory: the bytes that are not 0, by address, addresses strictly rising (R56, R61: every byte is 0 after reset). -/
abbrev Memory := List Host.Cell

/-- The run states (R300). -/
inductive RunState where
  | stopped
  | running
  | paused
  | terminated
  deriving DecidableEq, Repr

/-- The storage cells of the CSR file (R35, R38): `fcsr` backs `fflags` and `frm`, each 64-bit cell backs two counter CSRs. -/
structure CsrFile where
  ustatus : Word
  fcsr : Word
  uie : Word
  utvec : Word
  uscratch : Word
  uepc : Word
  ucause : Word
  utval : Word
  uip : Word
  cycle64 : Dword
  time64 : Dword
  instret64 : Dword
  deriving DecidableEq, Repr

/-- The interrupt controller (R57): three flag and payload pairs. `trapCause`, `trapValue` are the rule's `trap_exc`. -/
structure Controller where
  extPending : Bool
  extValue : Word
  tmrPending : Bool
  tmrValue : Word
  trapPending : Bool
  trapCause : Word
  trapValue : Word
  trapPc : Word
  deriving DecidableEq, Repr

/-- The execution engine's own state and the status port (R59, R8). `stepsLeft = none` is "unlimited". -/
structure RunControl where
  runState : RunState
  haltReason : HaltReason
  exitCode : Word
  faultPc : Word
  faultCause : Word
  faultValue : Word
  stepsLeft : Option Int
  breakpoints : List Word
  stopReq : Bool
  pauseReq : Bool
  deriving DecidableEq, Repr

/-- What the host can read (R6, R327): a register, a CSR, a memory location, the run state, and the status outputs (R8). Log 32. -/
inductive Query where
  | x (i : RegIdx)
  | f (i : RegIdx)
  | pc
  | csr (n : CsrNum)
  | mem (a : Word) (w : Width)
  | runState
  | haltReason
  | exitCode
  | faultPc
  | faultCause
  | faultValue
  deriving DecidableEq, Repr

/-- What a port operation answers: rejected or accepted, or the value a query reads. Log 24. -/
inductive Answer where
  | rejected
  | accepted
  | word (v : Word)
  | double (v : Dword)
  | runState (q : RunState)
  | haltReason (r : HaltReason)
  deriving DecidableEq, Repr

/-- One operation of an outside agent on a port of R6, or (`coreStep`) the core's turn. -/
inductive PortOp where
  /-- The core takes one step (R304) if it is RUNNING. -/
  | coreStep
  | registerExternal (value : Word)
  | registerTimer (value : Word)
  | start (maxSteps : Int) (breakpoints : List Word)
  /-- The command `step()` (R321). -/
  | stepOnce
  | pause
  | stop
  | reset
  | load (image : List (Word × Byte)) (entry : Word)
  | setMemoryConfiguration (cfg : MemConfig)
  | query (q : Query)
  | editX (i : RegIdx) (v : Word)
  | editF (i : RegIdx) (v : Dword)
  | editPc (v : Word)
  | editCsr (n : CsrNum) (v : Word)
  | editMem (a : Word) (w : Width) (v : Dword)
  deriving DecidableEq, Repr

/-- The machine's state. `draws`, `answer` and `agenda` are the model's own (log 2, 3, 24); `params` holds the launch's parameters
(R5, R60, log 1). -/
structure State where
  params : Params
  x : Vector Word 32
  pc : Word
  f : Vector Dword 32
  csr : CsrFile
  mem : Memory
  heapPtr : Word
  ctl : Controller
  run : RunControl
  draws : Nat
  answer : Answer
  agenda : List PortOp
  deriving DecidableEq, Repr

/-- The general registers after reset: sp and gp from the configuration, every other register 0 (R24, R61). -/
def resetRegisters (cfg : MemConfig) : Vector Word 32 :=
  ((Vector.replicate 32 0#32).set 2 cfg.stackPointer).set 3 cfg.globalPointer

/-- Every CSR cell after reset: 0 (R61). -/
def resetCsrs : CsrFile where
  ustatus := 0#32
  fcsr := 0#32
  uie := 0#32
  utvec := 0#32
  uscratch := 0#32
  uepc := 0#32
  ucause := 0#32
  utval := 0#32
  uip := 0#32
  cycle64 := 0#64
  time64 := 0#64
  instret64 := 0#64

/-- The machine right after reset (R61), with every parameter at its default (R5). The payloads (log 8), the status outputs (log 7),
`stepsLeft` and `breakpoints` (log 9), which R61 leaves unspecified or to the next `start`, hold values this model names. -/
def State.reset : State where
  params := Params.default
  x := resetRegisters Params.default.memcfg
  pc := Params.default.entryPc
  f := Vector.replicate 32 0#64
  csr := resetCsrs
  mem := []
  heapPtr := Params.default.memcfg.heapBase
  ctl :=
    { extPending := false, extValue := 0#32, tmrPending := false, tmrValue := 0#32,
      trapPending := false, trapCause := 0#32, trapValue := 0#32, trapPc := 0#32 }
  run :=
    { runState := .stopped, haltReason := .stop, exitCode := 0#32, faultPc := 0#32, faultCause := 0#32,
      faultValue := 0#32, stepsLeft := none, breakpoints := [], stopReq := false, pauseReq := false }
  draws := 0
  answer := .rejected
  agenda := []

end Sys2Proof.Machine
end

