-- ==== Sys2Proof/Machine/Segments.lean ====
section
/-! DEFINITION. Segments, their policies and the access check (20_memory.md R83 to R89, R93). -/

namespace Sys2Proof.Machine

/-- `WF(MEMCFG)` (R83 (a) to (d)); sums are taken as integers. -/
def wfConfig (c : MemConfig) : Bool :=
  let mult8 (n : Nat) : Bool := n % 8 == 0
  -- (a)
  mult8 c.textBase.toNat && mult8 c.dataSegBase.toNat && mult8 c.heapBase.toNat && mult8 c.stackLimit.toNat
    && mult8 c.kernelBase.toNat && mult8 c.mmioBase.toNat && mult8 (c.textLimit.toNat + 4)
    && mult8 (c.stackBase.toNat + 4) && mult8 (c.kernelHigh.toNat + 1) && mult8 (c.mmioLimit.toNat + 1)
  -- (b)
    && decide (c.textBase.toNat ≤ c.textLimit.toNat)
    && decide (c.dataSegBase.toNat ≤ c.heapBase.toNat) && decide (c.heapBase.toNat ≤ c.stackLimit.toNat)
    && decide (c.stackLimit.toNat ≤ c.stackBase.toNat)
    && decide (c.stackBase.toNat + 3 ≤ c.dataSegLimit.toNat) && decide (c.dataSegLimit.toNat ≤ c.userHigh.toNat)
    && decide (c.kernelBase.toNat ≤ c.mmioBase.toNat) && decide (c.mmioBase.toNat ≤ c.mmioLimit.toNat)
    && decide (c.mmioLimit.toNat ≤ c.kernelHigh.toNat)
  -- (c)
    && decide (c.textLimit.toNat + 3 < c.dataSegBase.toNat ∨ c.stackBase.toNat + 3 < c.textBase.toNat)
    && decide (c.textLimit.toNat + 3 < c.kernelBase.toNat ∨ c.kernelHigh.toNat < c.textBase.toNat)
    && decide (c.stackBase.toNat + 3 < c.kernelBase.toNat ∨ c.kernelHigh.toNat < c.dataSegBase.toNat)
  -- (d)
    && c.stackPointer.toNat % 4 == 0 && decide (c.stackLimit.toNat ≤ c.stackPointer.toNat)
    && decide (c.stackPointer.toNat ≤ c.stackBase.toNat)
    && decide (c.dataSegBase.toNat ≤ c.globalPointer.toNat) && decide (c.globalPointer.toNat ≤ c.heapBase.toNat)

/-- The six segments (R84). -/
inductive Segment where
  | text | data | heap | stack | mmio | kernel
  deriving DecidableEq, Repr

/-- The kinds of access (R89). -/
inductive AccessKind where
  | load | store | fetch
  deriving DecidableEq, Repr

/-- A failure of the access check; `a` is always the first byte of the access (R89). -/
inductive AccessFault where
  | misaligned (kind : AccessKind) (a : Word)
  | access (kind : AccessKind) (a : Word)
  deriving DecidableEq, Repr

/-- The segment that holds a byte address; none if it is unmapped (R84). Under `wfConfig` and the heap bounds of R95 the ranges are
disjoint; outside it the first range in the rule's order is taken (log 27). -/
def segmentOf (c : MemConfig) (heapPtr : Word) (a : Nat) : Option Segment :=
  if c.textBase.toNat ≤ a ∧ a ≤ c.textLimit.toNat + 3 then some .text
  else if c.dataSegBase.toNat ≤ a ∧ a < c.heapBase.toNat then some .data
  else if c.heapBase.toNat ≤ a ∧ a < heapPtr.toNat then some .heap
  else if max heapPtr.toNat c.stackLimit.toNat ≤ a ∧ a ≤ c.stackBase.toNat + 3 then some .stack
  else if c.mmioBase.toNat ≤ a ∧ a ≤ c.mmioLimit.toNat then some .mmio
  else if c.kernelBase.toNat ≤ a ∧ a ≤ c.kernelHigh.toNat then some .kernel
  else none

/-- The access policy (R85). -/
def policyAllows (p : Params) : Segment → AccessKind → Bool
  | .text, .load => p.textLoadPolicy == .allow || p.smcEnabled
  | .text, .store => p.smcEnabled
  | .text, .fetch => true
  | .data, .load | .data, .store => true
  | .heap, .load | .heap, .store => true
  | .stack, .load | .stack, .store => true
  | .mmio, .load | .mmio, .store => true
  | .kernel, .load | .kernel, .store => p.kernelPolicy == .rw
  | .data, .fetch | .heap, .fetch | .stack, .fetch | .mmio, .fetch | .kernel, .fetch => false

/-- Must an access of this width be aligned (R88)? -/
def mustAlign (p : Params) : Width → Bool
  | .byte => false
  | .half => p.halfAlign == .required
  | .word | .double => true

/-- The access check, in the order alignment, segment, crossing, policy (R89). -/
def resolve (p : Params) (heapPtr : Word) (a : Word) (w : Width) (kind : AccessKind) : Except AccessFault Segment :=
  if mustAlign p w = true ∧ a.toNat % w.bytes ≠ 0 then .error (.misaligned kind a)
  else
    match segmentOf p.memcfg heapPtr a.toNat with
    | none => .error (.access kind a)
    | some seg =>
      if a.toNat + w.bytes - 1 > 0xFFFFFFFF
          ∨ ¬ ∀ i ∈ List.range w.bytes, segmentOf p.memcfg heapPtr (a.toNat + i) = some seg then
        .error (.access kind a)
      else if policyAllows p seg kind = true then .ok seg
      else .error (.access kind a)

/-! ## Cause codes (R93, R340) -/

def causeInstructionAddressMisaligned : Word := 0x00000000#32
def causeInstructionAccessFault : Word := 0x00000001#32
def causeIllegalInstruction : Word := 0x00000002#32
def causeLoadAddressMisaligned : Word := 0x00000004#32
def causeLoadAccessFault : Word := 0x00000005#32
def causeStoreAddressMisaligned : Word := 0x00000006#32
def causeStoreAccessFault : Word := 0x00000007#32
def causeEnvironmentCall : Word := 0x00000008#32
def causeSoftwareInterrupt : Word := 0x80000000#32
def causeTimerInterrupt : Word := 0x80000004#32
def causeExternalInterrupt : Word := 0x80000008#32

/-- The cause of a failed access (R93). -/
def AccessFault.cause : AccessFault → Word
  | .misaligned .load _ => causeLoadAddressMisaligned
  | .misaligned .store _ => causeStoreAddressMisaligned
  | .misaligned .fetch _ => causeInstructionAddressMisaligned
  | .access .load _ => causeLoadAccessFault
  | .access .store _ => causeStoreAccessFault
  | .access .fetch _ => causeInstructionAccessFault

/-- The trap value of a failed access: its address (R93). -/
def AccessFault.value : AccessFault → Word
  | .misaligned _ a => a
  | .access _ a => a

end Sys2Proof.Machine
end

