-- ==== Sys2Proof/Machine/Ops.lean ====
section
/-! DEFINITION. The named operations over the state: registers, CSRs, memory, the counters, halts, raising, the interrupt
controller, taking an exception and returning from one, the heap allocator, the environment. -/

namespace Sys2Proof.Machine

/-- The three outcomes of a step on this machine. -/
abbrev Result := Host.Outcome State Fault Refusal

/-- Continue a result with a function of its next state. -/
def onNext (r : Result) (g : State → Result) : Result :=
  match r with
  | .next s => g s
  | .fault e => .fault e
  | .refused e => .refused e

/-! ## Register files (R20 to R23, R30) -/

/-- `x[i]`: register 0 reads 0 (R22). -/
def State.getX (s : State) (i : RegIdx) : Word := if i = 0#5 then 0#32 else s.x[i.toNat]'i.isLt

/-- `x[i] <- v`: a write to register 0 changes nothing (R22). -/
def State.setX (s : State) (i : RegIdx) (v : Word) : State :=
  if i = 0#5 then s else { s with x := s.x.set i.toNat v i.isLt }

/-- `f[i]` (R30). -/
def State.getF (s : State) (i : RegIdx) : Dword := s.f[i.toNat]'i.isLt

/-- `f[i] <- v` (R30). -/
def State.setF (s : State) (i : RegIdx) (v : Dword) : State := { s with f := s.f.set i.toNat v i.isLt }

/-- `pc <- target` (R10). -/
def State.setPc (s : State) (target : Word) : State := { s with pc := target }

/-- The byte of memory at an address. -/
def State.byteAt (s : State) (a : Nat) : Byte := s.mem.read a

/-! ## The CSR file (R37 to R55) -/

/-- The seventeen implemented CSRs (R38). -/
inductive CsrName where
  | ustatus | fflags | frm | fcsr | uie | utvec | uscratch | uepc | ucause | utval | uip
  | cycle | time | instret | cycleh | timeh | instreth
  deriving DecidableEq, Repr

/-- The 12-bit number of an implemented CSR (R38). -/
def csrNumber : CsrName → CsrNum
  | .ustatus => 0x000#12
  | .fflags => 0x001#12
  | .frm => 0x002#12
  | .fcsr => 0x003#12
  | .uie => 0x004#12
  | .utvec => 0x005#12
  | .uscratch => 0x040#12
  | .uepc => 0x041#12
  | .ucause => 0x042#12
  | .utval => 0x043#12
  | .uip => 0x044#12
  | .cycle => 0xC00#12
  | .time => 0xC01#12
  | .instret => 0xC02#12
  | .cycleh => 0xC80#12
  | .timeh => 0xC81#12
  | .instreth => 0xC82#12

/-- All implemented CSRs, in the order of R38. -/
def implementedCsrs : List CsrName :=
  [.ustatus, .fflags, .frm, .fcsr, .uie, .utvec, .uscratch, .uepc, .ucause, .utval, .uip,
   .cycle, .time, .instret, .cycleh, .timeh, .instreth]

/-- The CSR a number names; none if it is unimplemented (R37, R55). -/
def csrOfNumber (n : CsrNum) : Option CsrName := implementedCsrs.find? (fun c => csrNumber c == n)

/-- The public read of an implemented CSR (R38 to R52). -/
def csrGet (c : CsrName) (s : State) : Word :=
  match c with
  | .ustatus => s.csr.ustatus
  | .fflags => sliceRead 0 5 s.csr.fcsr
  | .frm => sliceRead 5 3 s.csr.fcsr
  | .fcsr => s.csr.fcsr
  | .uie => s.csr.uie
  | .utvec => s.csr.utvec
  | .uscratch => s.csr.uscratch
  | .uepc => s.csr.uepc
  | .ucause => s.csr.ucause
  | .utval => s.csr.utval
  | .uip => s.csr.uip
  | .cycle => s.csr.cycle64.extractLsb' 0 32
  | .time => s.csr.time64.extractLsb' 0 32
  | .instret => s.csr.instret64.extractLsb' 0 32
  | .cycleh => s.csr.cycle64.extractLsb' 32 32
  | .timeh => s.csr.time64.extractLsb' 32 32
  | .instreth => s.csr.instret64.extractLsb' 32 32

/-- The public write of the masked `fcsr` cell (R42). -/
def putFcsr (v : Word) (s : State) : State :=
  { s with csr := { s.csr with fcsr := maskedWrite fcsrMask s.csr.fcsr v } }

/-- The public write of an implemented CSR, by its variant (R31 to R34, R38, R53). -/
def csrPut (c : CsrName) (v : Word) (s : State) : State :=
  match c with
  | .ustatus => { s with csr := { s.csr with ustatus := maskedWrite ustatusMask s.csr.ustatus v } }
  | .fflags => putFcsr (sliceWrite 0 5 s.csr.fcsr v) s
  | .frm => putFcsr (sliceWrite 5 3 s.csr.fcsr v) s
  | .fcsr => putFcsr v s
  | .uie => { s with csr := { s.csr with uie := v } }
  | .utvec => { s with csr := { s.csr with utvec := v } }
  | .uscratch => { s with csr := { s.csr with uscratch := v } }
  | .uepc => { s with csr := { s.csr with uepc := v } }
  | .ucause => { s with csr := { s.csr with ucause := v } }
  | .utval => { s with csr := { s.csr with utval := v } }
  | .uip => { s with csr := { s.csr with uip := v } }
  | .cycle | .time | .instret | .cycleh | .timeh | .instreth => s

/-- `CSR[n]`: an unimplemented number reads 0 (R55). -/
def csrRead (n : CsrNum) (s : State) : Word :=
  match csrOfNumber n with
  | some c => csrGet c s
  | none => 0#32

/-- `CSR[n] <- v`: an unimplemented number ignores the write (R55). -/
def csrWrite (n : CsrNum) (v : Word) (s : State) : State :=
  match csrOfNumber n with
  | some c => csrPut c v s
  | none => s

/-- `orRegister` (R54). -/
def orRegister (c : CsrName) (mask : Word) (s : State) : State := csrPut c (csrGet c s ||| mask) s

/-- `clearRegister` (R54). -/
def clearRegister (c : CsrName) (mask : Word) (s : State) : State := csrPut c (csrGet c s &&& ~~~mask) s

/-! ## Advance and count (R310, R312) -/

/-- `pc <- pc + 4`, modulo 2^32 (R29, R310). -/
def advance (s : State) : State := { s with pc := s.pc + 4#32 }

/-- `count()`: the hardware-internal writes of the three counter cells (R36, R50 to R52, R312). -/
def count (s : State) : State :=
  { s with
    csr := { s.csr with
      cycle64 := s.csr.cycle64 + 1#64
      instret64 := s.csr.instret64 + 1#64
      time64 := Config.timeSource s.draws }
    draws := s.draws + 1 }

/-- The end of an instruction that completed and did not write `pc` (R310, R312). -/
def complete (s : State) : State := count (advance s)

/-- The end of an instruction that completed and wrote `pc` (R310, R312). -/
def completeAt (target : Word) (s : State) : State := count (s.setPc target)

/-- `x[rd] <- v`, then the end of the instruction: the whole effect of a computational instruction (R170). -/
def writeResult (rd : RegIdx) (v : Word) (s : State) : Result := .next (complete (s.setX rd v))

/-! ## Halts (R303) -/

/-- The run state a halt leads to (R303). -/
def haltState : HaltReason → RunState
  | .normalTermination => .terminated
  | .cliffTermination => .terminated
  | .exception => .terminated
  | .breakpoint => .paused
  | .maxSteps => .paused
  | .stop => .stopped
  | .pause => .paused
  | .invariantViolation => .terminated

/-- `halt(reason)` (R303). `pc` after a halt into TERMINATED is any value (R301, U6, log 5); a status output that the reason does not
define is any value (U5, log 6). -/
def halt (r : HaltReason) (s : State) : State :=
  { s with
    pc := if haltState r = .terminated then Config.freePc s.draws else s.pc
    run := { s.run with
      runState := haltState r
      haltReason := r
      stopReq := false
      pauseReq := false
      exitCode := if r = .normalTermination then s.run.exitCode else Config.freeExitCode s.draws
      faultPc := if r = .exception then s.run.faultPc else Config.freeFaultPc s.draws
      faultCause := if r = .exception then s.run.faultCause else Config.freeFaultCause s.draws
      faultValue := if r = .exception then s.run.faultValue else Config.freeFaultValue s.draws }
    draws := s.draws + 1 }

/-- Record a fault and halt with EXCEPTION (R94, R350, R360, R272). -/
def haltException (fpc cause value : Word) (s : State) : State :=
  halt .exception { s with run := { s.run with faultPc := fpc, faultCause := cause, faultValue := value } }

/-- Record the exit code and halt with NORMAL_TERMINATION (R272). -/
def haltExit (code : Word) (s : State) : State :=
  halt .normalTermination { s with run := { s.run with exitCode := code } }

/-! ## Memory accesses (R89 to R94) -/

/-- `MemRead(a, n)`: the `8n`-bit value in the low bits of a doubleword, or the failure (R90). -/
def memRead (a : Word) (w : Width) (s : State) : Except AccessFault Dword :=
  match resolve s.params s.heapPtr a w .load with
  | .ok _ => .ok (BitVec.ofNat 64 (leNat (s.mem.readBytes a.toNat w.bytes)))
  | .error e => .error e

/-- `MemWrite(a, n, v)`: all `n` bytes or none (R91). -/
def memWrite (a : Word) (w : Width) (v : Dword) (s : State) : Except AccessFault State :=
  match resolve s.params s.heapPtr a w .store with
  | .ok _ => .ok { s with mem := s.mem.writeBytes a.toNat (leBytes w.bytes v.toNat) }
  | .error e => .error e

/-- The word at an address, no check made (R94). -/
def wordAt (s : State) (a : Word) : Word :=
  leWord (s.mem.read a.toNat) (s.mem.read (a.toNat + 1)) (s.mem.read (a.toNat + 2)) (s.mem.read (a.toNat + 3))

/-- `Fetch(a)` without its halt (R94, R305). -/
def fetch (a : Word) (s : State) : Except AccessFault Word :=
  match resolve s.params s.heapPtr a .word .fetch with
  | .ok _ => .ok (wordAt s a)
  | .error e => .error e

/-! ## The interrupt controller (R344 to R359) -/

/-- `registerExternal(value)` (R345). -/
def registerExternal (value : Word) (s : State) : Bool × State :=
  if s.ctl.extPending then (false, s)
  else (true, { s with ctl := { s.ctl with extValue := value, extPending := true } })

/-- `registerTimer(value)` (R346). -/
def registerTimer (value : Word) (s : State) : Bool × State :=
  if s.ctl.tmrPending then (false, s)
  else (true, { s with ctl := { s.ctl with tmrValue := value, tmrPending := true } })

/-- `registerSynchronousTrap((cause, value), pc)` (R347). -/
def registerSynchronousTrap (cause value pc : Word) (s : State) : Bool × State :=
  if s.ctl.trapPending then (false, s)
  else
    (true, { s with ctl := { s.ctl with trapCause := cause, trapValue := value, trapPc := pc, trapPending := true } })

/-- An event the check hands to trap entry (R355). -/
structure TrapEvent where
  isInterrupt : Bool
  cause : Word
  value : Word
  epc : Word
  deriving DecidableEq, Repr

/-- `claimExternal()`; none when its assertion fails (R348). -/
def claimExternal (s : State) : Option (Word × State) :=
  if s.ctl.extPending then some (s.ctl.extValue, { s with ctl := { s.ctl with extPending := false } }) else none

/-- `claimTimer()`; none when its assertion fails (R349). -/
def claimTimer (s : State) : Option (Word × State) :=
  if s.ctl.tmrPending then some (s.ctl.tmrValue, { s with ctl := { s.ctl with tmrPending := false } }) else none

/-- `claimTrap()`; none when one of its two assertions fails (R352). -/
def claimTrap (s : State) : Option (TrapEvent × State) :=
  if s.ctl.trapPending = true ∧ s.ctl.trapPc = s.pc - 4#32 then
    some (⟨false, s.ctl.trapCause, s.ctl.trapValue, s.ctl.trapPc⟩,
      { s with ctl := { s.ctl with trapPending := false } })
  else none

/-- The controller's `reset()`: the flags clear, the payloads untouched (R359). -/
def controllerReset (c : Controller) : Controller :=
  { c with extPending := false, tmrPending := false, trapPending := false }

/-- `raise E(value)` (R350): register the trap and advance; a rejected registration halts. -/
def raise (cause value : Word) (s : State) : State :=
  match registerSynchronousTrap cause value s.pc s with
  | (true, s') => advance s'
  | (false, s') => haltException s.pc cause value s'

/-- Raise the exception of a failed access (R93, R239). -/
def raiseAccess (e : AccessFault) (s : State) : State := raise e.cause e.value s

/-- The refresh of `uip[8]` and `uip[4]`, last action of every check (R358). -/
def refreshUip (s : State) : State :=
  csrPut .uip
    ((csrGet .uip s &&& 0xFFFFFEEF#32) ||| (boolWord s.ctl.extPending <<< 8) ||| (boolWord s.ctl.tmrPending <<< 4)) s

/-- What `check()` finds: nothing, an event to take, or a failed assertion (then the state is the halted one). -/
inductive CheckResult where
  | nothing (s : State)
  | event (e : TrapEvent) (s : State)
  | violation (s : State)
  deriving DecidableEq, Repr

/-- A failed `assert` (R353). -/
def assertFailed (s : State) : CheckResult := .violation (halt .invariantViolation s)

/-- `check()` (R354, R355). -/
def check (s : State) : CheckResult :=
  if s.ctl.trapPending then
    match claimTrap s with
    | some (e, s') => .event e (refreshUip s')
    | none => assertFailed s
  else if ustatusUie (csrGet .ustatus s) && s.ctl.extPending && (csrGet .uie s).getLsbD 8 then
    match claimExternal s with
    | some (v, s') => .event ⟨true, causeExternalInterrupt, v, s.pc⟩ (refreshUip s')
    | none => assertFailed s
  else if ustatusUie (csrGet .ustatus s) && (csrGet .uip s).getLsbD 0 && (csrGet .uie s).getLsbD 0 then
    .event ⟨true, causeSoftwareInterrupt, 0#32, s.pc⟩ (refreshUip (clearRegister .uip 0x1#32 s))
  else if ustatusUie (csrGet .ustatus s) && s.ctl.tmrPending && (csrGet .uie s).getLsbD 4 then
    match claimTimer s with
    | some (v, s') => .event ⟨true, causeTimerInterrupt, v, s.pc⟩ (refreshUip s')
    | none => assertFailed s
  else .nothing (refreshUip s)

/-! ## Taking an exception and returning from one (R360, R276) -/

/-- The handler address: `utvec` with its two low bits cleared (R44, R362). -/
def handlerBase (s : State) : Word := csrGet .utvec s &&& 0xFFFFFFFC#32

/-- `present` of R360: interrupts globally enabled, and a non-null word fetchable at the handler address. -/
def handlerPresent (s : State) : Bool :=
  ustatusUie (csrGet .ustatus s)
    && (match fetch (handlerBase s) s with
        | .ok w => w != 0x00000000#32
        | .error _ => false)

/-- The three CSR writes of trap entry, made before the handler test (R360). -/
def saveTrap (e : TrapEvent) (s : State) : State :=
  csrPut .utval e.value (csrPut .uepc e.epc (csrPut .ucause e.cause s))

/-- `enter_trap(ev)`: the one way an exception or interrupt is taken (R360 to R363). -/
def enterTrap (e : TrapEvent) (s : State) : Result :=
  let s1 := saveTrap e s
  if e.isInterrupt = true ∧ csrGet .utvec s1 &&& 0x3#32 ≠ 0#32 then .refused .reservedVectorMode
  else if handlerPresent s1 then
    .next ((clearRegister .ustatus 0x1#32 (orRegister .ustatus 0x10#32 s1)).setPc (handlerBase s1))
  else .next (haltException e.epc e.cause e.value s1)

/-- UIE takes UPIE, and UPIE takes the parameter `URET_UPIE_AFTER`: the status part of URET (R276). -/
def restoreStatus (s : State) : State :=
  let s1 :=
    if ustatusUpie (csrGet .ustatus s) then orRegister .ustatus 0x1#32 s else clearRegister .ustatus 0x1#32 s
  if s.params.uretUpieAfter then orRegister .ustatus 0x10#32 s1 else clearRegister .ustatus 0x10#32 s1

/-- The return from a trap (R276): the status is restored, `pc <- uepc`, the instruction completes. -/
def returnFromTrap (s : State) : Result := .next (completeAt (csrGet .uepc s) (restoreStatus s))

/-! ## The heap allocator (R95) and the environment (R272 to R274) -/

/-- What the environment sees (R273). -/
def envView (s : State) : EnvView := ⟨s.x, s.f, s.mem, s.heapPtr⟩

/-- `STACK_FLOOR(state)` (R95). -/
def stackFloor (s : State) : Word :=
  match s.params.stackFloor with
  | .currentSp => s.getX 2#5
  | .fixed a => a
  | .free => Config.stackFloor s.draws (envView s)

/-- A size rounded up to a multiple of 4 (R95). -/
def roundUp4 (n : Int) : Int := (n + 3) / 4 * 4

/-- `allocateHeap(numBytes)`: the previous heap pointer and the new state, or none for AllocationFault (R95). -/
def allocateHeap (numBytes : Int) (s : State) : Option (Word × State) :=
  let new : Int := s.heapPtr.toNat + roundUp4 numBytes
  if numBytes < 0 then none
  else if new > (stackFloor s).toNat ∨ new > s.params.memcfg.stackBase.toNat + 4 then none
  else some (s.heapPtr, { s with heapPtr := BitVec.ofInt 32 new })

/-- `ENV_REF` (R274). -/
def envReference (s : State) : EnvOutcome :=
  if s.getX 17#5 = 10#32 then .exit 0#32
  else if s.getX 17#5 = 93#32 then .exit (s.getX 10#5)
  else .raise causeEnvironmentCall 0#32

/-- `ENV(state)` (R272, R273), by the parameter `ENV`. -/
def envAnswer (s : State) : EnvOutcome :=
  match s.params.env with
  | .reference => envReference s
  | .exitArgument => .exit (s.getX 10#5)
  | .always o => o
  | .free => Config.envAnswer s.draws (envView s)

/-- The environment's accesses, in order, stopping at the first memory access that fails; what was already done stays done, and a
failed allocation is the environment's own affair (R95, R273). Log 13. -/
def envAccesses : List EnvAccess → State → State × Option AccessFault
  | [], s => (s, none)
  | .read a w :: rest, s =>
    match memRead a w s with
    | .ok _ => envAccesses rest s
    | .error e => (s, some e)
  | .write a w v :: rest, s =>
    match memWrite a w v s with
    | .ok s' => envAccesses rest s'
    | .error e => (s, some e)
  | .alloc n :: rest, s =>
    match allocateHeap n s with
    | some (_, s') => envAccesses rest s'
    | none => envAccesses rest s

/-- The general registers of a Continue outcome; writes to register 0 are discarded (R273). -/
def applyXs : List (RegIdx × Word) → State → State
  | [], s => s
  | (i, v) :: rest, s => applyXs rest (s.setX i v)

/-- The floating-point registers of a Continue outcome (R273). -/
def applyFs : List (RegIdx × Dword) → State → State
  | [], s => s
  | (i, v) :: rest, s => applyFs rest (s.setF i v)

/-- What an `ECALL` does with the environment's outcome (R272, R273). -/
def applyEnv (o : EnvOutcome) (s : State) : State :=
  match o with
  | .continues xs fs accesses =>
    match envAccesses accesses s with
    | (s1, none) => complete (applyFs fs (applyXs xs s1))
    | (s1, some e) => haltException s.pc e.cause e.value s1
  | .exit code => haltExit code s
  | .raise cause value => haltException s.pc cause value s

end Sys2Proof.Machine
end

