-- ==== Sys2Proof/Machine/Operands.lean ====
section
/-! DEFINITION. Operand forms: immediates as 32-bit values (30_encoding.md R132), effective addresses (42 R230), shift amounts (R171),
targets (41 R210 to R212), and the access and branch shapes several instructions share. -/

namespace Sys2Proof.Machine

/-- `imm_I` and `imm_S`: the 12-bit field, sign-extended (R132). -/
def imm12 (imm : BitVec 12) : Word := imm.signExtend 32

/-- `imm_B`: the byte offset, sign-extended (R132). -/
def immB (off : BitVec 13) : Word := off.signExtend 32

/-- `imm_J`: the byte offset, sign-extended (R132). -/
def immJ (off : BitVec 21) : Word := off.signExtend 32

/-- `imm_U`: the 20-bit field with 12 zero bits appended (R132). -/
def immU (imm : BitVec 20) : Word := imm ++ 0#12

/-- The unsigned 5-bit immediate of the CSR forms (R131, R284). -/
def uimmWord (u : BitVec 5) : Word := u.setWidth 32

/-- The effective address of a load or store, modulo 2^32 (R230). -/
def effectiveAddress (s : State) (rs1 : RegIdx) (imm : BitVec 12) : Word := s.getX rs1 + imm12 imm

/-- The amount of a register shift: the low 5 bits (R171, R185). -/
def shiftAmount (v : Word) : Nat := (v.extractLsb' 0 5).toNat

/-- The target of JALR: bit 0 of the sum cleared (R212). -/
def jalrTarget (s : State) (rs1 : RegIdx) (imm : BitVec 12) : Word := (s.getX rs1 + imm12 imm) &&& 0xFFFFFFFE#32

/-- A conditional branch (R210, R213 to R218). -/
def branchIf (taken : Bool) (off : BitVec 13) (s : State) : Result :=
  .next (if taken then completeAt (s.pc + immB off) s else complete s)

/-- A load: the access, then `x[rd]` takes the widened value; a failed access raises and writes nothing (R239 to R241). -/
def loadTo (rd : RegIdx) (ea : Word) (w : Width) (widen : Dword → Word) (s : State) : Result :=
  match memRead ea w s with
  | .ok v => writeResult rd (widen v) s
  | .error e => .next (raiseAccess e s)

/-- A store: the access with the low bits of `v`; a failed access raises and writes nothing (R239 to R241). -/
def storeAt (ea : Word) (w : Width) (v : Word) (s : State) : Result :=
  match memWrite ea w (v.setWidth 64) s with
  | .ok s' => .next (complete s')
  | .error e => .next (raiseAccess e s)

/-- `sext_32` of a byte read (R241). -/
def widenSignedByte (v : Dword) : Word := (v.setWidth 8).signExtend 32

/-- `sext_32` of a half read (R241). -/
def widenSignedHalf (v : Dword) : Word := (v.setWidth 16).signExtend 32

/-- `zext_32` of a byte read (R241). -/
def widenByte (v : Dword) : Word := (v.setWidth 8).setWidth 32

/-- `zext_32` of a half read (R241). -/
def widenHalf (v : Dword) : Word := (v.setWidth 16).setWidth 32

/-- A word read (R233). -/
def widenWord (v : Dword) : Word := v.setWidth 32

/-- A CSR instruction: the old value goes to `x[rd]`, and the CSR takes `new old` unless that is none (R280 to R286). -/
def csrUpdate (rd : RegIdx) (n : CsrNum) (new : Word → Option Word) (s : State) : Result :=
  let t := csrRead n s
  match new t with
  | some v => writeResult rd t (csrWrite n v s)
  | none => writeResult rd t s

end Sys2Proof.Machine
end

