-- ==== Sys2Proof/Machine/ControlTransfer.lean ====
section
/-! DEFINITION. The control-transfer instructions (41_control_transfer.md R210 to R220). -/

namespace Sys2Proof.Machine

/-- `JAL`: `x[rd] <- pc + 4`, `pc <- pc + imm_J`; a misaligned target raises nothing here, R219 (R211). -/
def execJal (rd : RegIdx) (off : BitVec 21) (s : State) : Result :=
  .next (completeAt (s.pc + immJ off) (s.setX rd (s.pc + 4#32)))

/-- `JALR`: the target is read from the old `x[rs1]`; `x[rd] <- pc + 4` (R212). -/
def execJalr (rd rs1 : RegIdx) (imm : BitVec 12) (s : State) : Result :=
  .next (completeAt (jalrTarget s rs1 imm) (s.setX rd (s.pc + 4#32)))

/-- `BEQ`: taken when `x[rs1] = x[rs2]` (R213). -/
def execBeq (rs1 rs2 : RegIdx) (off : BitVec 13) (s : State) : Result :=
  branchIf (s.getX rs1 == s.getX rs2) off s

/-- `BNE`: taken when `x[rs1] != x[rs2]` (R214). -/
def execBne (rs1 rs2 : RegIdx) (off : BitVec 13) (s : State) : Result :=
  branchIf (s.getX rs1 != s.getX rs2) off s

/-- `BLT`: taken when `s(x[rs1]) < s(x[rs2])` (R215). -/
def execBlt (rs1 rs2 : RegIdx) (off : BitVec 13) (s : State) : Result :=
  branchIf (signedLess (s.getX rs1) (s.getX rs2)) off s

/-- `BGE`: taken when `s(x[rs1]) >= s(x[rs2])` (R216). -/
def execBge (rs1 rs2 : RegIdx) (off : BitVec 13) (s : State) : Result :=
  branchIf (!signedLess (s.getX rs1) (s.getX rs2)) off s

/-- `BLTU`: taken when `u(x[rs1]) < u(x[rs2])` (R217). -/
def execBltu (rs1 rs2 : RegIdx) (off : BitVec 13) (s : State) : Result :=
  branchIf (unsignedLess (s.getX rs1) (s.getX rs2)) off s

/-- `BGEU`: taken when `u(x[rs1]) >= u(x[rs2])` (R218). -/
def execBgeu (rs1 rs2 : RegIdx) (off : BitVec 13) (s : State) : Result :=
  branchIf (!unsignedLess (s.getX rs1) (s.getX rs2)) off s

end Sys2Proof.Machine
end

