-- ==== Sys2Proof/Machine/IntegerComputational.lean ====
section
/-! DEFINITION. The integer computational instructions (40_integer_computational.md R170 to R192). -/

namespace Sys2Proof.Machine

/-- `LUI`: `x[rd] <- imm_U` (R172). -/
def execLui (rd : RegIdx) (imm : BitVec 20) (s : State) : Result :=
  writeResult rd (immU imm) s

/-- `AUIPC`: `x[rd] <- pc + imm_U` (R173). -/
def execAuipc (rd : RegIdx) (imm : BitVec 20) (s : State) : Result :=
  writeResult rd (s.pc + immU imm) s

/-- `ADDI`: `x[rd] <- x[rs1] + imm_I`, modulo 2^32 (R174). -/
def execAddi (rd rs1 : RegIdx) (imm : BitVec 12) (s : State) : Result :=
  writeResult rd (s.getX rs1 + imm12 imm) s

/-- `SLTI`: 1 when `s(x[rs1]) < s(imm_I)`, else 0 (R175). -/
def execSlti (rd rs1 : RegIdx) (imm : BitVec 12) (s : State) : Result :=
  writeResult rd (boolWord (signedLess (s.getX rs1) (imm12 imm))) s

/-- `SLTIU`: 1 when `u(x[rs1]) < u(imm_I)`, else 0; the immediate is sign-extended first (R176). -/
def execSltiu (rd rs1 : RegIdx) (imm : BitVec 12) (s : State) : Result :=
  writeResult rd (boolWord (unsignedLess (s.getX rs1) (imm12 imm))) s

/-- `XORI`: `x[rd] <- x[rs1] ^ imm_I` (R177). -/
def execXori (rd rs1 : RegIdx) (imm : BitVec 12) (s : State) : Result :=
  writeResult rd (s.getX rs1 ^^^ imm12 imm) s

/-- `ORI`: `x[rd] <- x[rs1] | imm_I` (R178). -/
def execOri (rd rs1 : RegIdx) (imm : BitVec 12) (s : State) : Result :=
  writeResult rd (s.getX rs1 ||| imm12 imm) s

/-- `ANDI`: `x[rd] <- x[rs1] & imm_I` (R179). -/
def execAndi (rd rs1 : RegIdx) (imm : BitVec 12) (s : State) : Result :=
  writeResult rd (s.getX rs1 &&& imm12 imm) s

/-- `SLLI`: `x[rd] <- x[rs1] << shamt` (R180). -/
def execSlli (rd rs1 : RegIdx) (shamt : BitVec 5) (s : State) : Result :=
  writeResult rd (s.getX rs1 <<< shamt.toNat) s

/-- `SRLI`: `x[rd] <- x[rs1] >>u shamt` (R181). -/
def execSrli (rd rs1 : RegIdx) (shamt : BitVec 5) (s : State) : Result :=
  writeResult rd (s.getX rs1 >>> shamt.toNat) s

/-- `SRAI`: `x[rd] <- x[rs1] >>s shamt` (R182). -/
def execSrai (rd rs1 : RegIdx) (shamt : BitVec 5) (s : State) : Result :=
  writeResult rd ((s.getX rs1).sshiftRight shamt.toNat) s

/-- `ADD`: `x[rd] <- x[rs1] + x[rs2]`, modulo 2^32 (R183). -/
def execAdd (rd rs1 rs2 : RegIdx) (s : State) : Result :=
  writeResult rd (s.getX rs1 + s.getX rs2) s

/-- `SUB`: `x[rd] <- x[rs1] - x[rs2]`, modulo 2^32 (R184). -/
def execSub (rd rs1 rs2 : RegIdx) (s : State) : Result :=
  writeResult rd (s.getX rs1 - s.getX rs2) s

/-- `SLL`: `x[rd] <- x[rs1] << x[rs2][4:0]` (R185). -/
def execSll (rd rs1 rs2 : RegIdx) (s : State) : Result :=
  writeResult rd (s.getX rs1 <<< shiftAmount (s.getX rs2)) s

/-- `SLT`: 1 when `s(x[rs1]) < s(x[rs2])`, else 0 (R186). -/
def execSlt (rd rs1 rs2 : RegIdx) (s : State) : Result :=
  writeResult rd (boolWord (signedLess (s.getX rs1) (s.getX rs2))) s

/-- `SLTU`: 1 when `u(x[rs1]) < u(x[rs2])`, else 0 (R187). -/
def execSltu (rd rs1 rs2 : RegIdx) (s : State) : Result :=
  writeResult rd (boolWord (unsignedLess (s.getX rs1) (s.getX rs2))) s

/-- `XOR`: `x[rd] <- x[rs1] ^ x[rs2]` (R188). -/
def execXor (rd rs1 rs2 : RegIdx) (s : State) : Result :=
  writeResult rd (s.getX rs1 ^^^ s.getX rs2) s

/-- `SRL`: `x[rd] <- x[rs1] >>u x[rs2][4:0]` (R189). -/
def execSrl (rd rs1 rs2 : RegIdx) (s : State) : Result :=
  writeResult rd (s.getX rs1 >>> shiftAmount (s.getX rs2)) s

/-- `SRA`: `x[rd] <- x[rs1] >>s x[rs2][4:0]` (R190). -/
def execSra (rd rs1 rs2 : RegIdx) (s : State) : Result :=
  writeResult rd ((s.getX rs1).sshiftRight (shiftAmount (s.getX rs2))) s

/-- `OR`: `x[rd] <- x[rs1] | x[rs2]` (R191). -/
def execOr (rd rs1 rs2 : RegIdx) (s : State) : Result :=
  writeResult rd (s.getX rs1 ||| s.getX rs2) s

/-- `AND`: `x[rd] <- x[rs1] & x[rs2]` (R192). -/
def execAnd (rd rs1 rs2 : RegIdx) (s : State) : Result :=
  writeResult rd (s.getX rs1 &&& s.getX rs2) s

end Sys2Proof.Machine
end

