-- ==== Sys2Proof/Machine/LoadStore.lean ====
section
/-! DEFINITION. The load and store instructions (42_load_store.md R230 to R241). -/

namespace Sys2Proof.Machine

/-- `LB`: `x[rd] <- sext_32(MemRead(ea, 1))` (R231). -/
def execLb (rd rs1 : RegIdx) (imm : BitVec 12) (s : State) : Result :=
  loadTo rd (effectiveAddress s rs1 imm) .byte widenSignedByte s

/-- `LH`: `x[rd] <- sext_32(MemRead(ea, 2))` (R232). -/
def execLh (rd rs1 : RegIdx) (imm : BitVec 12) (s : State) : Result :=
  loadTo rd (effectiveAddress s rs1 imm) .half widenSignedHalf s

/-- `LW`: `x[rd] <- MemRead(ea, 4)` (R233). -/
def execLw (rd rs1 : RegIdx) (imm : BitVec 12) (s : State) : Result :=
  loadTo rd (effectiveAddress s rs1 imm) .word widenWord s

/-- `LBU`: `x[rd] <- zext_32(MemRead(ea, 1))` (R234). -/
def execLbu (rd rs1 : RegIdx) (imm : BitVec 12) (s : State) : Result :=
  loadTo rd (effectiveAddress s rs1 imm) .byte widenByte s

/-- `LHU`: `x[rd] <- zext_32(MemRead(ea, 2))` (R235). -/
def execLhu (rd rs1 : RegIdx) (imm : BitVec 12) (s : State) : Result :=
  loadTo rd (effectiveAddress s rs1 imm) .half widenHalf s

/-- `SB`: `MemWrite(ea, 1, x[rs2])`, the low 8 bits (R236). -/
def execSb (rs2 rs1 : RegIdx) (imm : BitVec 12) (s : State) : Result :=
  storeAt (effectiveAddress s rs1 imm) .byte (s.getX rs2) s

/-- `SH`: `MemWrite(ea, 2, x[rs2])`, the low 16 bits (R237). -/
def execSh (rs2 rs1 : RegIdx) (imm : BitVec 12) (s : State) : Result :=
  storeAt (effectiveAddress s rs1 imm) .half (s.getX rs2) s

/-- `SW`: `MemWrite(ea, 4, x[rs2])`, the low 32 bits (R238). -/
def execSw (rs2 rs1 : RegIdx) (imm : BitVec 12) (s : State) : Result :=
  storeAt (effectiveAddress s rs1 imm) .word (s.getX rs2) s

end Sys2Proof.Machine
end

