-- ==== Sys2Proof/Machine/MulDiv.lean ====
section
/-! DEFINITION. The multiply and divide instructions (43_muldiv.md R250 to R258). -/

namespace Sys2Proof.Machine

/-- Bits 63:32 of an exact product, as a 64-bit two's-complement value (R250, R252 to R254). -/
def highHalf (p : Int) : Word := (BitVec.ofInt 64 p).extractLsb' 32 32

/-- The quotient of DIV: all ones for a zero divisor, the dividend for signed overflow, else rounded toward zero (R250, R255). -/
def divSigned (a b : Word) : Word :=
  if b = 0#32 then 0xFFFFFFFF#32
  else if a = 0x80000000#32 ∧ b = 0xFFFFFFFF#32 then 0x80000000#32
  else BitVec.ofInt 32 (a.toInt.tdiv b.toInt)

/-- The remainder of REM: the dividend for a zero divisor, 0 for signed overflow, else `a - b * (a quot b)` (R250, R257). -/
def remSigned (a b : Word) : Word :=
  if b = 0#32 then a
  else if a = 0x80000000#32 ∧ b = 0xFFFFFFFF#32 then 0#32
  else BitVec.ofInt 32 (a.toInt - b.toInt * a.toInt.tdiv b.toInt)

/-- The quotient of DIVU: all ones for a zero divisor (R256). -/
def divUnsigned (a b : Word) : Word := if b = 0#32 then 0xFFFFFFFF#32 else BitVec.ofNat 32 (a.toNat / b.toNat)

/-- The remainder of REMU: the dividend for a zero divisor (R258). -/
def remUnsigned (a b : Word) : Word := if b = 0#32 then a else BitVec.ofNat 32 (a.toNat % b.toNat)

/-- `MUL`: bits 31:0 of the product (R251). -/
def execMul (rd rs1 rs2 : RegIdx) (s : State) : Result :=
  writeResult rd (BitVec.ofNat 32 ((s.getX rs1).toNat * (s.getX rs2).toNat)) s

/-- `MULH`: bits 63:32 of signed times signed (R252). -/
def execMulh (rd rs1 rs2 : RegIdx) (s : State) : Result :=
  writeResult rd (highHalf ((s.getX rs1).toInt * (s.getX rs2).toInt)) s

/-- `MULHSU`: bits 63:32 of signed `x[rs1]` times unsigned `x[rs2]` (R253). -/
def execMulhsu (rd rs1 rs2 : RegIdx) (s : State) : Result :=
  writeResult rd (highHalf ((s.getX rs1).toInt * (s.getX rs2).toNat)) s

/-- `MULHU`: bits 63:32 of unsigned times unsigned (R254). -/
def execMulhu (rd rs1 rs2 : RegIdx) (s : State) : Result :=
  writeResult rd (highHalf ((s.getX rs1).toNat * (s.getX rs2).toNat)) s

/-- `DIV` (R255). -/
def execDiv (rd rs1 rs2 : RegIdx) (s : State) : Result :=
  writeResult rd (divSigned (s.getX rs1) (s.getX rs2)) s

/-- `DIVU` (R256). -/
def execDivu (rd rs1 rs2 : RegIdx) (s : State) : Result :=
  writeResult rd (divUnsigned (s.getX rs1) (s.getX rs2)) s

/-- `REM` (R257). -/
def execRem (rd rs1 rs2 : RegIdx) (s : State) : Result :=
  writeResult rd (remSigned (s.getX rs1) (s.getX rs2)) s

/-- `REMU` (R258). -/
def execRemu (rd rs1 rs2 : RegIdx) (s : State) : Result :=
  writeResult rd (remUnsigned (s.getX rs1) (s.getX rs2)) s

end Sys2Proof.Machine
end

