-- ==== Sys2Proof/Machine/System.lean ====
section
/-! DEFINITION. The system, fence and CSR instructions (44_system.md R270 to R287). -/

namespace Sys2Proof.Machine

/-- `FENCE`: a no-op whatever its fields (R270, R138). -/
def execFence (_fm _pred _succ : BitVec 4) (_rs1 _rd : RegIdx) (s : State) : Result :=
  .next (complete s)

/-- `FENCE.I`: a no-op whatever its fields (R271, R138). -/
def execFenceI (_imm : BitVec 12) (_rs1 _rd : RegIdx) (s : State) : Result :=
  .next (complete s)

/-- `ECALL`: the environment answers, and its outcome is applied (R272). -/
def execEcall  (s : State) : Result :=
  .next (applyEnv (envAnswer s) s)

/-- `EBREAK`: completes, then halts with BREAKPOINT (R275). -/
def execEbreak  (s : State) : Result :=
  .next (halt .breakpoint (complete s))

/-- `URET`: the return from a trap (R276). -/
def execUret  (s : State) : Result :=
  returnFromTrap s

/-- `WFI`: a no-op; the next step checks as every step does (R277). -/
def execWfi  (s : State) : Result :=
  .next (complete s)

/-- `CSRRW`: the CSR takes `x[rs1]` (R281). -/
def execCsrrw (rd : RegIdx) (csr : CsrNum) (rs1 : RegIdx) (s : State) : Result :=
  csrUpdate rd csr (fun _ => some (s.getX rs1)) s

/-- `CSRRS`: sets bits; no write when `rs1` is register 0 (R282). -/
def execCsrrs (rd : RegIdx) (csr : CsrNum) (rs1 : RegIdx) (s : State) : Result :=
  csrUpdate rd csr (fun t => if rs1 ≠ 0#5 then some (t ||| s.getX rs1) else none) s

/-- `CSRRC`: clears bits; no write when `rs1` is register 0 (R283). -/
def execCsrrc (rd : RegIdx) (csr : CsrNum) (rs1 : RegIdx) (s : State) : Result :=
  csrUpdate rd csr (fun t => if rs1 ≠ 0#5 then some (t &&& ~~~(s.getX rs1)) else none) s

/-- `CSRRWI`: the CSR takes `zext_32(uimm)` (R284). -/
def execCsrrwi (rd : RegIdx) (csr : CsrNum) (uimm : BitVec 5) (s : State) : Result :=
  csrUpdate rd csr (fun _ => some (uimmWord uimm)) s

/-- `CSRRSI`: sets bits; no write when `uimm` is 0 (R285). -/
def execCsrrsi (rd : RegIdx) (csr : CsrNum) (uimm : BitVec 5) (s : State) : Result :=
  csrUpdate rd csr (fun t => if uimm ≠ 0#5 then some (t ||| uimmWord uimm) else none) s

/-- `CSRRCI`: clears bits; no write when `uimm` is 0 (R286). -/
def execCsrrci (rd : RegIdx) (csr : CsrNum) (uimm : BitVec 5) (s : State) : Result :=
  csrUpdate rd csr (fun t => if uimm ≠ 0#5 then some (t &&& ~~~(uimmWord uimm)) else none) s

end Sys2Proof.Machine
end

