-- ==== Sys2Proof/Machine/Cycle.lean ====
section
/-! DEFINITION. One step of the core, S0 to S5 (50_step_and_run_control.md R304 to R313), over the meanings of the instructions, which
`Machine/Step.lean` supplies. -/

namespace Sys2Proof.Machine

/-- The meanings of the instructions. -/
abbrev Meanings := Instr → State → Result

/-- S3 and S4 for a fetched word: decode, then the instruction's rule, the null word's halt, the illegal word's raise or the refusal
(R307 to R310, R312). -/
def execWord (exec : Meanings) (w : Word) (s : State) : Result :=
  match decode w with
  | .null => .next (halt .cliffTermination s)
  | .refused => .refused .refusedOpcode
  | .illegal => .next (raise causeIllegalInstruction 0#32 s)
  | .instr i => exec i s

/-- One unit of a finite step budget is used (R313). -/
def countdown (s : State) : State :=
  { s with run := { s.run with stepsLeft := s.run.stepsLeft.map (fun n => n - 1) } }

/-- S5: the budget, then the breakpoints on the new `pc`; a step that a halt ended does not reach it (R304, R313). -/
def finishStep (s : State) : State :=
  if s.run.runState = .running then
    let s1 := countdown s
    if s1.pc ∈ s1.run.breakpoints then halt .breakpoint s1
    else if s1.run.stepsLeft = some 0 then halt .maxSteps s1
    else s1
  else s

/-- S2 to S5, once the word at `pc` is fetched (R304, R306). -/
def afterFetch (exec : Meanings) (w : Word) (s : State) : Result :=
  match check s with
  | .violation s' => .next s'
  | .event e s' => onNext (enterTrap e s') (fun t => .next (finishStep t))
  | .nothing s' => onNext (execWord exec w s') (fun t => .next (finishStep t))

/-- One step of a RUNNING core (R304): the requests, the fetch, then the rest. -/
def runCore (exec : Meanings) (s : State) : Result :=
  if s.run.stopReq then .next (halt .stop s)
  else if s.run.pauseReq then .next (halt .pause s)
  else
    match fetch s.pc s with
    | .error e => .next (haltException s.pc e.cause e.value s)
    | .ok w => afterFetch exec w s

/-- A core that is not RUNNING changes nothing by itself (R300). After a run that ended in EXCEPTION or INVARIANT_VIOLATION the machine
stops with a fault instead (R11 (b), U7, U8, log 10). -/
def idleStep (s : State) : Result :=
  if s.run.runState = .terminated ∧ s.run.haltReason = .exception then .fault .unhandledException
  else if s.run.runState = .terminated ∧ s.run.haltReason = .invariantViolation then .fault .invariantViolation
  else .next s

end Sys2Proof.Machine
end

