-- ==== Sys2Proof/Machine/Ports.lean ====
section
/-! DEFINITION. The ports of the core (00_scope.md R6): run control (50 R320 to R327), reset, loading and the memory configuration
(70 R400 to R405), the query and edit port, and the operations of outside agents as they take their turn. -/

namespace Sys2Proof.Machine

/-- Is the core RUNNING? -/
def isRunning (s : State) : Bool := s.run.runState == .running

/-- The answer of an operation that gives no value. -/
def verdict (accepted : Bool) : Answer := if accepted then .accepted else .rejected

/-- Record a port's answer (log 24). -/
def replied (a : Answer) (s : State) : Result := .next { s with answer := a }

/-- Record whether a port's operation was accepted. -/
def answered (r : Bool × State) : Result := replied (verdict r.1) r.2

/-- `start(maxSteps, breakpoints)` (R320, R322): accepted when STOPPED or PAUSED. The breakpoints are kept without repeats (log 25). -/
def startRun (maxSteps : Int) (breakpoints : List Word) (s : State) : Bool × State :=
  if s.run.runState = .stopped ∨ s.run.runState = .paused then
    (true, { s with run := { s.run with
      breakpoints := breakpoints.foldr List.insert []
      stepsLeft := if maxSteps > 0 then some maxSteps else none
      stopReq := false
      pauseReq := false
      runState := .running } })
  else (false, s)

/-- `pause()` (R324). -/
def requestPause (s : State) : Bool × State :=
  if isRunning s then (true, { s with run := { s.run with pauseReq := true } }) else (false, s)

/-- `stop()` (R324). -/
def requestStop (s : State) : Bool × State :=
  if isRunning s then (true, { s with run := { s.run with stopReq := true } }) else (false, s)

/-- `clear()` of the memory component (R96). -/
def clearMemory (s : State) : State := { s with mem := [], heapPtr := s.params.memcfg.heapBase }

/-- The reset of a core that is not RUNNING (R400, R61). The payloads are untouched (R359); the status outputs are any value until the
first halt (R61, log 6); `stepsLeft` and `breakpoints` are left to the next `start` (R401). -/
def resetState (s : State) : State :=
  let s1 := clearMemory s
  { s1 with
    x := resetRegisters s.params.memcfg
    pc := s.params.entryPc
    f := Vector.replicate 32 0#64
    csr := resetCsrs
    ctl := controllerReset s.ctl
    run := { s.run with
      runState := .stopped
      stopReq := false
      pauseReq := false
      haltReason := Config.freeHaltReason s.draws
      exitCode := Config.freeExitCode s.draws
      faultPc := Config.freeFaultPc s.draws
      faultCause := Config.freeFaultCause s.draws
      faultValue := Config.freeFaultValue s.draws }
    draws := s.draws + 1 }

/-- `reset()` (R400): a RUNNING core is stopped first (log 17). -/
def hostReset (s : State) : State := resetState (if isRunning s then halt .stop s else s)

/-- Does every image byte lie in a segment, the heap being empty (R404)? -/
def imageInSegments (cfg : MemConfig) (image : List (Word × Byte)) : Bool :=
  image.all (fun p => (segmentOf cfg cfg.heapBase p.1.toNat).isSome)

/-- `load(image, entry)` (R404) of a core that is not RUNNING: reset, direct byte writes, the entry. -/
def loadImage (image : List (Word × Byte)) (entry : Word) (s : State) : State :=
  let s1 := hostReset s
  { s1 with mem := s1.mem.writeImage image, params := { s1.params with entryPc := entry }, pc := entry }

/-- `setMemoryConfiguration(cfg)` (R405) of a core that is not RUNNING: the parameters, then a reset under them. -/
def switchConfiguration (cfg : MemConfig) (s : State) : State :=
  hostReset { s with params := { s.params with memcfg := cfg, entryPc := cfg.textBase } }

/-- The value a query reads: a CSR by the public path (R37), memory by `MemRead` (R90), which gives no value where its check fails
(R98, log 26); the status outputs are readable state (R8). Log 32. -/
def queryValue (q : Query) (s : State) : Answer :=
  match q with
  | .x i => .word (s.getX i)
  | .f i => .double (s.getF i)
  | .pc => .word s.pc
  | .csr n => .word (csrRead n s)
  | .mem a w =>
    match memRead a w s with
    | .ok v => .double v
    | .error _ => .rejected
  | .runState => .runState s.run.runState
  | .haltReason => .haltReason s.run.haltReason
  | .exitCode => .word s.run.exitCode
  | .faultPc => .word s.run.faultPc
  | .faultCause => .word s.run.faultCause
  | .faultValue => .word s.run.faultValue

/-- A host query: only while the core is not RUNNING (R101, R327, log 16). -/
def hostQuery (q : Query) (s : State) : Answer := if isRunning s then .rejected else queryValue q s

/-- A host edit: only while the core is not RUNNING (R101, R327, log 16). -/
def edit (g : State → State) (s : State) : Bool × State := if isRunning s then (false, s) else (true, g s)

/-- A host write of memory: through `MemWrite`, so the segment policy applies (R327, log 26). -/
def editMemory (a : Word) (w : Width) (v : Dword) (s : State) : Bool × State :=
  if isRunning s then (false, s)
  else
    match memWrite a w v s with
    | .ok s' => (true, s')
    | .error _ => (false, s)

/-- One port operation, or the core's turn (R6, R9; log 2). -/
def applyPort (exec : Meanings) (op : PortOp) (s : State) : Result :=
  match op with
  | .coreStep => if isRunning s then runCore exec s else .next s
  | .registerExternal v => answered (registerExternal v s)
  | .registerTimer v => answered (registerTimer v s)
  | .start n bps => answered (startRun n bps s)
  | .stepOnce => answered (startRun 1 [] s)
  | .pause => answered (requestPause s)
  | .stop => answered (requestStop s)
  | .reset => answered (true, hostReset s)
  | .load image entry =>
    if isRunning s then answered (false, s)
    else if imageInSegments s.params.memcfg image then answered (true, loadImage image entry s)
    else .refused .illFormedImage
  | .setMemoryConfiguration cfg =>
    if isRunning s then answered (false, s)
    else if wfConfig cfg then answered (true, switchConfiguration cfg s)
    else .refused .illFormedConfiguration
  | .query q => replied (hostQuery q s) s
  | .editX i v => answered (edit (fun t => t.setX i v) s)
  | .editF i v => answered (edit (fun t => t.setF i v) s)
  | .editPc v => answered (edit (fun t => t.setPc v) s)
  | .editCsr n v => answered (edit (csrWrite n v) s)
  | .editMem a w v => answered (editMemory a w v s)

/-- The machine's step: the next operation of the agenda, or, when no outside agent acts, the core's step (R9, R300, R304). -/
def stepWith (exec : Meanings) (s : State) : Result :=
  match s.agenda with
  | [] => if isRunning s then runCore exec s else idleStep s
  | op :: rest => applyPort exec op { s with agenda := rest }

/-- A state with the word `v` in memory at `pc`, as the loader writes it (R404), and the core RUNNING as after `start(-1, [])` with no
outside agent about to act (R320). Log 18. -/
def placeWord (v : Word) (s : State) : State :=
  { s with
    mem := s.mem.writeBytes s.pc.toNat (leBytes 4 v.toNat)
    run := { s.run with
      runState := .running, stepsLeft := none, breakpoints := [], stopReq := false, pauseReq := false }
    agenda := [] }

end Sys2Proof.Machine
end

