-- ==== Sys2Proof/Machine/Step.lean ====
section
/-! DEFINITION. The machine's step, and how one instruction is placed where the step fetches it. -/

namespace Sys2Proof.Machine

/-- One step of the machine (R9, R304): `stepWith` over the meanings of `exec`. -/
def step (s : State) : Host.Outcome State Fault Refusal := stepWith exec s

/-- The state with the instruction whose bits are `w` (bits above `nbits` zero) stored at `pc`, and the core RUNNING: what the host's
`load` and `start` do (R404, R320). Log 18. -/
def State.withFetchWord (s : State) (nbits w : Nat) : State := placeWord (BitVec.ofNat 32 (w % 2 ^ nbits)) s

end Sys2Proof.Machine
end

