-- ==== Sys2Proof/Safety.lean ====
section
/-! DEFINITION. The terms the claims use: how a run ends, what a step leaves unchanged, what raising, halting and completing look
like from outside, and the invariants of the machine. -/

namespace Sys2Proof.Machine

/-! ## How a run ends (R11, R303) -/

/-- A good final state: TERMINATED with NORMAL_TERMINATION (R303). -/
def goodFinal (s : State) : Bool := s.run.runState == .terminated && s.run.haltReason == .normalTermination

/-- A fault in the sense of R11 (b): TERMINATED with EXCEPTION or INVARIANT_VIOLATION. -/
def faulted (s : State) : Bool :=
  s.run.runState == .terminated && (s.run.haltReason == .exception || s.run.haltReason == .invariantViolation)

/-! ## What is unchanged between two states -/

/-- Every general register reads as before. -/
def SameX (s t : State) : Prop := ∀ i : RegIdx, t.getX i = s.getX i

/-- Every general register but `rd` reads as before. -/
def SameXExcept (rd : RegIdx) (s t : State) : Prop := ∀ i : RegIdx, i ≠ rd → t.getX i = s.getX i

/-- Every floating-point register reads as before. -/
def SameF (s t : State) : Prop := ∀ i : RegIdx, t.getF i = s.getF i

/-- Every byte of memory reads as before. -/
def SameMemory (s t : State) : Prop := ∀ a : Nat, t.byteAt a = s.byteAt a

/-- Every byte outside the `n` bytes from `lo` up reads as before. -/
def SameMemoryExcept (lo n : Nat) (s t : State) : Prop := ∀ a : Nat, ¬(lo ≤ a ∧ a < lo + n) → t.byteAt a = s.byteAt a

/-- The nine CSR cells other than the counters are as before. -/
structure SameCsrs (s t : State) : Prop where
  ustatus : t.csr.ustatus = s.csr.ustatus
  fcsr : t.csr.fcsr = s.csr.fcsr
  uie : t.csr.uie = s.csr.uie
  utvec : t.csr.utvec = s.csr.utvec
  uscratch : t.csr.uscratch = s.csr.uscratch
  uepc : t.csr.uepc = s.csr.uepc
  ucause : t.csr.ucause = s.csr.ucause
  utval : t.csr.utval = s.csr.utval
  uip : t.csr.uip = s.csr.uip

/-- The three counter cells are as before. -/
structure SameCounters (s t : State) : Prop where
  cycle : t.csr.cycle64 = s.csr.cycle64
  time : t.csr.time64 = s.csr.time64
  instret : t.csr.instret64 = s.csr.instret64

/-- One completed instruction was counted: `count()` of R312, `time64` being the free draw of R51. -/
structure Counted (s t : State) : Prop where
  cycle : t.csr.cycle64 = s.csr.cycle64 + 1#64
  time : t.csr.time64 = Config.timeSource s.draws
  instret : t.csr.instret64 = s.csr.instret64 + 1#64

/-- What no instruction but `ECALL` and `EBREAK` reaches: the controller, the run-control state, the parameters, the heap pointer, the
last port answer and the agenda. -/
structure SameSystem (s t : State) : Prop where
  controller : t.ctl = s.ctl
  runControl : t.run = s.run
  parameters : t.params = s.params
  heap : t.heapPtr = s.heapPtr
  answer : t.answer = s.answer
  agenda : t.agenda = s.agenda

/-! ## What an instruction's end looks like -/

/-- An instruction completed with `pc` at `target`: counted, and everything unchanged that its own rule does not name. -/
structure Completed (target : Word) (s t : State) : Prop where
  pc : t.pc = target
  counted : Counted s t
  fp : SameF s t
  system : SameSystem s t

/-- An instruction completed and wrote `v` to register `rd` (nothing if `rd` is register 0), and nothing else. -/
structure WroteRegister (rd : RegIdx) (v target : Word) (s t : State) : Prop where
  result : t.getX rd = if rd = 0#5 then 0#32 else v
  registers : SameXExcept rd s t
  csrs : SameCsrs s t
  memory : SameMemory s t
  completed : Completed target s t

/-- An instruction completed and wrote no register, no CSR and no memory. -/
structure WroteNothing (target : Word) (s t : State) : Prop where
  registers : SameX s t
  csrs : SameCsrs s t
  memory : SameMemory s t
  completed : Completed target s t

/-- An instruction completed and wrote the `n` bytes `byte 0 .. byte (n - 1)` of memory from `lo` up, and nothing else. -/
structure WroteMemory (lo n : Nat) (byte : Nat → Byte) (s t : State) : Prop where
  stored : ∀ i : Nat, i < n → t.byteAt (lo + i) = byte i
  memory : SameMemoryExcept lo n s t
  registers : SameX s t
  csrs : SameCsrs s t
  completed : Completed (s.pc + 4#32) s t

/-- An exception was raised at `s.pc` (R350): the trap is registered, `pc` advances, and nothing else changes. -/
structure Raised (cause value : Word) (s t : State) : Prop where
  pending : t.ctl.trapPending = true
  cause : t.ctl.trapCause = cause
  value : t.ctl.trapValue = value
  trapPc : t.ctl.trapPc = s.pc
  pc : t.pc = s.pc + 4#32
  external : t.ctl.extPending = s.ctl.extPending ∧ t.ctl.extValue = s.ctl.extValue
  timer : t.ctl.tmrPending = s.ctl.tmrPending ∧ t.ctl.tmrValue = s.ctl.tmrValue
  registers : SameX s t
  fp : SameF s t
  csrs : SameCsrs s t
  counters : SameCounters s t
  memory : SameMemory s t
  runControl : t.run = s.run
  parameters : t.params = s.params
  heap : t.heapPtr = s.heapPtr
  agenda : t.agenda = s.agenda

/-- Nothing a program can read has changed, and neither has the controller: what a halt leaves (R301), `pc` apart. -/
structure SameProgramState (s t : State) : Prop where
  registers : SameX s t
  fp : SameF s t
  csrs : SameCsrs s t
  counters : SameCounters s t
  memory : SameMemory s t
  heap : t.heapPtr = s.heapPtr
  controller : t.ctl = s.ctl
  parameters : t.params = s.params

/-- The run has ended for a reason, in a run state, with the requests cleared (R303). -/
structure Halted (r : HaltReason) (q : RunState) (t : State) : Prop where
  state : t.run.runState = q
  reason : t.run.haltReason = r
  stopClear : t.run.stopReq = false
  pauseClear : t.run.pauseReq = false

/-- The fault record (R340). -/
structure FaultRecord (pc cause value : Word) (t : State) : Prop where
  pc : t.run.faultPc = pc
  cause : t.run.faultCause = cause
  value : t.run.faultValue = value

/-- The core is about to take a step of its own: RUNNING, no request, no outside agent about to act. -/
structure AboutToStep (s : State) : Prop where
  agenda : s.agenda = []
  running : s.run.runState = .running
  noStop : s.run.stopReq = false
  noPause : s.run.pauseReq = false

/-- The step at hand is the core's own and no request halts it: RUNNING, and no outside agent acts first. -/
structure CoreTurn (s : State) : Prop where
  agenda : s.agenda = [] ∨ ∃ rest, s.agenda = .coreStep :: rest
  running : s.run.runState = .running
  noStop : s.run.stopReq = false
  noPause : s.run.pauseReq = false

/-- An unlimited budget and no breakpoint: S5 changes nothing (R313). -/
structure Unlimited (s : State) : Prop where
  budget : s.run.stepsLeft = none
  breakpoints : s.run.breakpoints = []

/-! ## How an instruction is said to run -/

/-- The word `w` decodes to `i`, and `i` at `s` ANSWERS A NEXT STATE, of which `P` holds. -/
def RunsTo (w : Word) (i : Instr) (s : State) (P : State → Prop) : Prop :=
  decode w = .instr i ∧ ∃ t, exec i s = .next t ∧ P t

/-- The instruction `i` loads: it completes with `v` in `rd` when the access check of the `w` bytes at `ea` succeeds, and raises a
misaligned or an access fault at `ea` otherwise (R239, R240). -/
structure LoadRule (i : Instr) (rd : RegIdx) (ea : Word) (w : Width) (v : Word) (s : State) : Prop where
  completes : ∀ seg, resolve s.params s.heapPtr ea w .load = .ok seg →
    ∃ t, exec i s = .next t ∧ WroteRegister rd v (s.pc + 4#32) s t
  misaligned : s.ctl.trapPending = false → mustAlign s.params w = true → ea.toNat % w.bytes ≠ 0 →
    ∃ t, exec i s = .next t ∧ Raised 0x00000004#32 ea s t
  denied : s.ctl.trapPending = false → ¬(mustAlign s.params w = true ∧ ea.toNat % w.bytes ≠ 0) →
    (∀ seg, resolve s.params s.heapPtr ea w .load ≠ .ok seg) → ∃ t, exec i s = .next t ∧ Raised 0x00000005#32 ea s t

/-- The instruction `i` stores `byte 0 ..` in the `w` bytes at `ea` when the access check succeeds, and raises a misaligned or an
access fault at `ea` otherwise (R239, R240). -/
structure StoreRule (i : Instr) (ea : Word) (w : Width) (byte : Nat → Byte) (s : State) : Prop where
  completes : ∀ seg, resolve s.params s.heapPtr ea w .store = .ok seg →
    ∃ t, exec i s = .next t ∧ WroteMemory ea.toNat w.bytes byte s t
  misaligned : s.ctl.trapPending = false → mustAlign s.params w = true → ea.toNat % w.bytes ≠ 0 →
    ∃ t, exec i s = .next t ∧ Raised 0x00000006#32 ea s t
  denied : s.ctl.trapPending = false → ¬(mustAlign s.params w = true ∧ ea.toNat % w.bytes ≠ 0) →
    (∀ seg, resolve s.params s.heapPtr ea w .store ≠ .ok seg) → ∃ t, exec i s = .next t ∧ Raised 0x00000007#32 ea s t

/-- A CSR instruction read CSR `n` into `rd` and wrote `v` to it through the public path, and did nothing else (R280). -/
structure WroteCsr (rd : RegIdx) (n : CsrNum) (v : Word) (s t : State) : Prop where
  result : t.getX rd = if rd = 0#5 then 0#32 else csrRead n s
  registers : SameXExcept rd s t
  csrs : SameCsrs (csrWrite n v s) t
  memory : SameMemory s t
  completed : Completed (s.pc + 4#32) s t

/-- The control-transfer instructions (R210). -/
def isTransfer : Instr → Bool
  | .jal .. | .jalr .. | .beq .. | .bne .. | .blt .. | .bge .. | .bltu .. | .bgeu .. => true
  | .lui .. | .auipc .. | .lb .. | .lh .. | .lw .. | .lbu .. | .lhu .. | .sb .. | .sh .. | .sw .. => false
  | .addi .. | .slti .. | .sltiu .. | .xori .. | .ori .. | .andi .. | .slli .. | .srli .. | .srai .. => false
  | .add .. | .sub .. | .sll .. | .slt .. | .sltu .. | .xor .. | .srl .. | .sra .. | .or .. | .and .. => false
  | .mul .. | .mulh .. | .mulhsu .. | .mulhu .. | .div .. | .divu .. | .rem .. | .remu .. => false
  | .fence .. | .fenceI .. | .ecall | .ebreak | .uret | .wfi => false
  | .csrrw .. | .csrrs .. | .csrrc .. | .csrrwi .. | .csrrsi .. | .csrrci .. => false

/-! ## What the check and trap entry leave -/

/-- The check gave `s'` from `s`: the controller is `c`, `uip` is `ip` with its two mirror bits rewritten from `c` (R358), and nothing
else changed. -/
structure Checked (c : Controller) (ip : Word) (s s' : State) : Prop where
  controller : s'.ctl = c
  uip : s'.csr.uip =
    (ip &&& 0xFFFFFEEF#32) ||| (if c.extPending then 0x100#32 else 0#32) ||| (if c.tmrPending then 0x10#32 else 0#32)
  rest : s' = { s with ctl := s'.ctl, csr := { s.csr with uip := s'.csr.uip } }

/-- No event qualifies at the check (R354). -/
def NoEvent (s : State) : Prop :=
  s.ctl.trapPending = false ∧ (s.csr.ustatus.getLsbD 0 = true →
    ¬(s.ctl.extPending = true ∧ s.csr.uie.getLsbD 8 = true) ∧ ¬(s.csr.uip.getLsbD 0 = true ∧ s.csr.uie.getLsbD 0 = true) ∧
    ¬(s.ctl.tmrPending = true ∧ s.csr.uie.getLsbD 4 = true))

/-- Trap entry at the handler (R360, R363): the event is saved, `UIE` is clear, `UPIE` set, `pc` at the handler. -/
structure Entered (e : TrapEvent) (s t : State) : Prop where
  cause : t.csr.ucause = e.cause
  epc : t.csr.uepc = e.epc
  value : t.csr.utval = e.value
  status : t.csr.ustatus = (s.csr.ustatus &&& 0xFFFFFFFE#32) ||| 0x10#32
  pc : t.pc = s.csr.utvec &&& 0xFFFFFFFC#32
  rest : t = { s with pc := t.pc, csr := { s.csr with
    ustatus := t.csr.ustatus, ucause := t.csr.ucause, uepc := t.csr.uepc, utval := t.csr.utval } }

/-- A handler is present (R360): interrupts enabled, the vector fetchable, the word there not null. -/
def HandlerPresent (s : State) : Prop :=
  s.csr.ustatus.getLsbD 0 = true ∧
    (∃ seg, resolve s.params s.heapPtr (s.csr.utvec &&& 0xFFFFFFFC#32) .word .fetch = .ok seg) ∧
    wordAt s (s.csr.utvec &&& 0xFFFFFFFC#32) ≠ 0x00000000#32

/-- An event found no handler (R360, R361): it is saved, and the run ends with EXCEPTION and the event's fault record. -/
structure Unhandled (e : TrapEvent) (s t : State) : Prop where
  cause : t.csr.ucause = e.cause
  epc : t.csr.uepc = e.epc
  value : t.csr.utval = e.value
  csrs : t.csr = { s.csr with ucause := e.cause, uepc := e.epc, utval := e.value }
  halted : Halted .exception .terminated t
  record : FaultRecord e.epc e.cause e.value t
  registers : SameX s t
  fp : SameF s t
  memory : SameMemory s t
  heap : t.heapPtr = s.heapPtr
  controller : t.ctl = s.ctl

/-! ## The invariants -/

/-- What every step keeps (R22, R35, R39, R42, R52, R56, R83, R95, R303, R313, R324). -/
structure Inv (s : State) : Prop where
  /-- Memory is in its canonical form. -/
  memory : s.mem.wf
  /-- Memory lists no address outside the address space (R80). -/
  addressSpace : ∀ p ∈ s.mem, p.1 < 2 ^ 32
  /-- The cell of register 0 holds 0 (R22). -/
  zeroCell : s.x[0] = 0#32
  /-- The protected bits of `ustatus` are 0 (R39). -/
  ustatusReserved : s.csr.ustatus &&& 0xFFFFFFEE#32 = 0#32
  /-- The protected bits of `fcsr` are 0 (R42). -/
  fcsrReserved : s.csr.fcsr &&& 0xFFFFFF00#32 = 0#32
  /-- The two counters agree (R52). -/
  counters : s.csr.instret64 = s.csr.cycle64
  /-- The configuration is well-formed (R83). -/
  configuration : wfConfig s.params.memcfg = true
  /-- The heap pointer is within its bounds (R95). -/
  heapBounds : s.params.memcfg.heapBase.toNat ≤ s.heapPtr.toNat ∧ s.heapPtr.toNat ≤ s.params.memcfg.stackBase.toNat + 4
  /-- The heap pointer is a multiple of 4 (R95). -/
  heapAligned : s.heapPtr.toNat % 4 = 0
  /-- A running core has budget left (R313). -/
  budget : s.run.runState = .running → ∀ n, s.run.stepsLeft = some n → 0 < n
  /-- A core that does not run has no request (R303, R324). -/
  requests : s.run.runState ≠ .running → s.run.stopReq = false ∧ s.run.pauseReq = false
  /-- The breakpoints are a set (R323). -/
  breakpoints : s.run.breakpoints.Nodup

/-- What `claimTrap` asserts (R352), of every state in which the check could still come: a pending trap's `pc` is `pc - 4`. -/
def TrapInv (s : State) : Prop :=
  s.run.runState ≠ .terminated → s.ctl.trapPending = true → s.ctl.trapPc = s.pc - 4#32

end Sys2Proof.Machine
end

