-- ==== Sys2Proof/Certificates/Slice0/Obligations.lean ====
section
/-! DEFINITION. The statements about the model, from the numbered rules of spec/. Each docstring names its rules. What a rule marks
`[from general knowledge, not in source]` or as a decision of the spec is taken as the spec's rule (log 30). A docstring that begins
with `From` states an inference from the rules it names, not a rule. -/

open Sys2Proof Sys2Proof.Machine

/-! ## Encoding and decode (30_encoding.md) -/

/-- Decoding an encoded well-formed instruction gives it back, with every operand at every value its encoding admits. -/
def Obligations.DecodeEncodeRoundTrip : Prop :=
  ∀ i : Instr, i.wellFormed = true → decode (encode i) = .instr i

/-- A word that decodes to an instruction is that instruction's encoding: no bit of it is dropped. -/
def Obligations.EncodeDecodeRoundTrip : Prop :=
  ∀ (w : Word) (i : Instr), decode w = .instr i → i.wellFormed = true ∧ encode i = w

/-- R133, R134: the rows of the map are disjoint; a word selects a row exactly when it decodes to an instruction of that row; the null
word is found first, and a word that selects no row is refused or illegal by its major opcode. -/
def Obligations.DecoderFollowsOpcodeMap : Prop :=
  (∀ (w : Word) (r r' : OpcodeRow), r ∈ opcodeMap → r' ∈ opcodeMap → r.selects w = true → r'.selects w = true → r = r') ∧
  (∀ (w : Word) (r : OpcodeRow), r ∈ opcodeMap →
    (r.selects w = true ↔ ∃ i, decode w = .instr i ∧ i.mnemonic = r.mnemonic)) ∧
  decode 0x00000000#32 = .null ∧
  (∀ w : Word, w ≠ 0x00000000#32 → (∀ r ∈ opcodeMap, r.selects w = false) →
    decode w =
      if w.extractLsb' 0 7 ∈ [0b0000111#7, 0b0100111#7, 0b1000011#7, 0b1000111#7, 0b1001011#7, 0b1001111#7, 0b1010011#7,
          0b0101111#7] then .refused
      else .illegal)

/-- R136, R372: the classes (a) to (g) are illegal, and an illegal word raises IllegalInstruction with trap value 0. -/
def Obligations.IllegalWordsRaise : Prop :=
  (∀ w : Word, w ≠ 0x00000000#32 →
    let op := w.extractLsb' 0 7
    let f3 := w.extractLsb' 12 3
    let f7 := w.extractLsb' 25 7
    -- (a)
    (w.extractLsb' 0 2 ≠ 0b11#2 → decode w = .illegal) ∧
    -- (b)
    (op ∈ [0b0011011#7, 0b0111011#7] → decode w = .illegal) ∧
    (op = 0b0000011#7 → f3 ∈ [0b011#3, 0b110#3] → decode w = .illegal) ∧
    (op = 0b0100011#7 → f3 = 0b011#3 → decode w = .illegal) ∧
    (op = 0b0010011#7 → f3 ∈ [0b001#3, 0b101#3] → w.getLsbD 25 = true → decode w = .illegal) ∧
    -- (c)
    (op = 0b1100111#7 → f3 ≠ 0b000#3 → decode w = .illegal) ∧
    (op = 0b1100011#7 → f3 ∈ [0b010#3, 0b011#3] → decode w = .illegal) ∧
    (op = 0b0000011#7 → f3 = 0b111#3 → decode w = .illegal) ∧
    (op = 0b0100011#7 → f3 ∈ [0b100#3, 0b101#3, 0b110#3, 0b111#3] → decode w = .illegal) ∧
    (op = 0b0001111#7 → f3 ∈ [0b010#3, 0b011#3, 0b100#3, 0b101#3, 0b110#3, 0b111#3] → decode w = .illegal) ∧
    (op = 0b1110011#7 → f3 = 0b100#3 → decode w = .illegal) ∧
    -- (d)
    (op = 0b0110011#7 → f7 ∉ [0b0000000#7, 0b0100000#7, 0b0000001#7] → decode w = .illegal) ∧
    (op = 0b0110011#7 → f7 = 0b0100000#7 → f3 ∉ [0b000#3, 0b101#3] → decode w = .illegal) ∧
    -- (e)
    (op = 0b0010011#7 → f3 = 0b001#3 → f7 ≠ 0b0000000#7 → decode w = .illegal) ∧
    (op = 0b0010011#7 → f3 = 0b101#3 → f7 ∉ [0b0000000#7, 0b0100000#7] → decode w = .illegal) ∧
    -- (f)
    (op = 0b1110011#7 → f3 = 0b000#3 → w ∉ [0x00000073#32, 0x00100073#32, 0x00200073#32, 0x10500073#32] →
      decode w = .illegal) ∧
    -- (g)
    (op ∉ [0b0110111#7, 0b0010111#7, 0b1101111#7, 0b1100111#7, 0b1100011#7, 0b0000011#7, 0b0100011#7, 0b0010011#7,
        0b0110011#7, 0b0001111#7, 0b1110011#7, 0b0000111#7, 0b0100111#7, 0b1000011#7, 0b1000111#7, 0b1001011#7,
        0b1001111#7, 0b1010011#7, 0b0101111#7] → decode w = .illegal)) ∧
  (∀ (w : Word) (s : State), decode w = .illegal → s.ctl.trapPending = false →
    ∃ t, execWord exec w s = .next t ∧ Raised 0x00000002#32 0#32 s t)

/-- R137: a word with a floating-point or atomic major opcode decodes to REFUSED, and a step that would execute it is refused: no next
state, no fault. -/
def Obligations.RefusedWordsAreRefused : Prop :=
  ∀ w : Word,
    w.extractLsb' 0 7 ∈ [0b0000111#7, 0b0100111#7, 0b1000011#7, 0b1000111#7, 0b1001011#7, 0b1001111#7, 0b1010011#7,
      0b0101111#7] →
    decode w = .refused ∧
    ∀ s : State, AboutToStep s → fetch s.pc s = .ok w → NoEvent s → step s = .refused .refusedOpcode

/-- Words written out in the spec's examples decode to the instructions they stand for, through the bytes memory holds. -/
def Obligations.SpelledWordsDecode : Prop :=
  decodeTableWord 32 0x12345537 = some (.lui 10#5 0x12345#20) ∧
  decodeTableWord 32 0x008000EF = some (.jal 1#5 8#21) ∧
  decodeTableWord 32 0x004280E7 = some (.jalr 1#5 5#5 4#12) ∧
  decodeTableWord 32 0xFE051EE3 = some (.bne 10#5 0#5 (-4)) ∧
  decodeTableWord 32 0xFFC5A503 = some (.lw 10#5 11#5 (-4)) ∧
  decodeTableWord 32 0x00A580A3 = some (.sb 10#5 11#5 1#12) ∧
  decodeTableWord 32 0x41F55513 = some (.srai 10#5 10#5 31#5) ∧
  decodeTableWord 32 0x40C58533 = some (.sub 10#5 11#5 12#5) ∧
  decodeTableWord 32 0x02C5A533 = some (.mulhsu 10#5 11#5 12#5) ∧
  decodeTableWord 32 0x0FF0000F = some (.fence 0#4 15#4 15#4 0#5 0#5) ∧
  decodeTableWord 32 0x00200073 = some .uret ∧
  decodeTableWord 32 0xC0002573 = some (.csrrs 10#5 0xC00#12 0#5) ∧
  decodeTableWord 32 0x0440F573 = some (.csrrci 10#5 0x044#12 1#5)

/-! ## Integer computational instructions (40_integer_computational.md) -/

/-- R172, R173: LUI and AUIPC. -/
def Obligations.UpperImmediateResults : Prop :=
  ∀ (rd : RegIdx) (imm : BitVec 20) (s : State),
    RunsTo (encU imm rd 0b0110111#7) (.lui rd imm) s (WroteRegister rd (imm ++ 0x000#12) (s.pc + 4#32) s) ∧
    RunsTo (encU imm rd 0b0010111#7) (.auipc rd imm) s (WroteRegister rd (s.pc + (imm ++ 0x000#12)) (s.pc + 4#32) s)

/-- R174 to R179: ADDI, SLTI, SLTIU, XORI, ORI, ANDI. -/
def Obligations.RegisterImmediateResults : Prop :=
  ∀ (rd rs1 : RegIdx) (imm : BitVec 12) (s : State),
    let a := s.getX rs1
    let b : Word := imm.signExtend 32
    RunsTo (encI imm rs1 0b000#3 rd 0b0010011#7) (.addi rd rs1 imm) s (WroteRegister rd (a + b) (s.pc + 4#32) s) ∧
    RunsTo (encI imm rs1 0b010#3 rd 0b0010011#7) (.slti rd rs1 imm) s
      (WroteRegister rd (if a.toInt < b.toInt then 1#32 else 0#32) (s.pc + 4#32) s) ∧
    RunsTo (encI imm rs1 0b011#3 rd 0b0010011#7) (.sltiu rd rs1 imm) s
      (WroteRegister rd (if a.toNat < b.toNat then 1#32 else 0#32) (s.pc + 4#32) s) ∧
    RunsTo (encI imm rs1 0b100#3 rd 0b0010011#7) (.xori rd rs1 imm) s (WroteRegister rd (a ^^^ b) (s.pc + 4#32) s) ∧
    RunsTo (encI imm rs1 0b110#3 rd 0b0010011#7) (.ori rd rs1 imm) s (WroteRegister rd (a ||| b) (s.pc + 4#32) s) ∧
    RunsTo (encI imm rs1 0b111#3 rd 0b0010011#7) (.andi rd rs1 imm) s (WroteRegister rd (a &&& b) (s.pc + 4#32) s)

/-- R180 to R182: SLLI, SRLI, SRAI as arithmetic: the product cut to 32 bits, the quotient of the unsigned value, the quotient of the
signed value rounded toward minus infinity. SLLI with another `w[31:25]` is illegal. -/
def Obligations.ShiftImmediateResults : Prop :=
  (∀ (rd rs1 : RegIdx) (sh : BitVec 5) (s : State),
    (∃ v : Word, v.toNat = (s.getX rs1).toNat * 2 ^ sh.toNat % 2 ^ 32 ∧
      RunsTo (encR 0b0000000#7 sh rs1 0b001#3 rd 0b0010011#7) (.slli rd rs1 sh) s (WroteRegister rd v (s.pc + 4#32) s)) ∧
    (∃ v : Word, v.toNat = (s.getX rs1).toNat / 2 ^ sh.toNat ∧
      RunsTo (encR 0b0000000#7 sh rs1 0b101#3 rd 0b0010011#7) (.srli rd rs1 sh) s (WroteRegister rd v (s.pc + 4#32) s)) ∧
    (∃ v : Word, v.toInt = (s.getX rs1).toInt / 2 ^ sh.toNat ∧
      RunsTo (encR 0b0100000#7 sh rs1 0b101#3 rd 0b0010011#7) (.srai rd rs1 sh) s (WroteRegister rd v (s.pc + 4#32) s))) ∧
  (∀ (f7 : BitVec 7) (rd rs1 : RegIdx) (sh : BitVec 5), f7 ≠ 0b0000000#7 →
    decode (encR f7 sh rs1 0b001#3 rd 0b0010011#7) = .illegal)

/-- R183, R184, R188, R191, R192: ADD, SUB, XOR, OR, AND. -/
def Obligations.RegisterRegisterResults : Prop :=
  ∀ (rd rs1 rs2 : RegIdx) (s : State),
    let a := s.getX rs1
    let b := s.getX rs2
    RunsTo (encR 0b0000000#7 rs2 rs1 0b000#3 rd 0b0110011#7) (.add rd rs1 rs2) s (WroteRegister rd (a + b) (s.pc + 4#32) s) ∧
    RunsTo (encR 0b0100000#7 rs2 rs1 0b000#3 rd 0b0110011#7) (.sub rd rs1 rs2) s (WroteRegister rd (a - b) (s.pc + 4#32) s) ∧
    RunsTo (encR 0b0000000#7 rs2 rs1 0b100#3 rd 0b0110011#7) (.xor rd rs1 rs2) s
      (WroteRegister rd (a ^^^ b) (s.pc + 4#32) s) ∧
    RunsTo (encR 0b0000000#7 rs2 rs1 0b110#3 rd 0b0110011#7) (.or rd rs1 rs2) s (WroteRegister rd (a ||| b) (s.pc + 4#32) s) ∧
    RunsTo (encR 0b0000000#7 rs2 rs1 0b111#3 rd 0b0110011#7) (.and rd rs1 rs2) s (WroteRegister rd (a &&& b) (s.pc + 4#32) s)

/-- R185, R186, R187, R189, R190: SLL, SLT, SLTU, SRL, SRA; the shift amount is the low 5 bits of `x[rs2]`. -/
def Obligations.RegisterShiftsAndCompares : Prop :=
  ∀ (rd rs1 rs2 : RegIdx) (s : State),
    let a := s.getX rs1
    let b := s.getX rs2
    (∃ v : Word, v.toNat = a.toNat * 2 ^ (b.toNat % 32) % 2 ^ 32 ∧
      RunsTo (encR 0b0000000#7 rs2 rs1 0b001#3 rd 0b0110011#7) (.sll rd rs1 rs2) s (WroteRegister rd v (s.pc + 4#32) s)) ∧
    RunsTo (encR 0b0000000#7 rs2 rs1 0b010#3 rd 0b0110011#7) (.slt rd rs1 rs2) s
      (WroteRegister rd (if a.toInt < b.toInt then 1#32 else 0#32) (s.pc + 4#32) s) ∧
    RunsTo (encR 0b0000000#7 rs2 rs1 0b011#3 rd 0b0110011#7) (.sltu rd rs1 rs2) s
      (WroteRegister rd (if a.toNat < b.toNat then 1#32 else 0#32) (s.pc + 4#32) s) ∧
    (∃ v : Word, v.toNat = a.toNat / 2 ^ (b.toNat % 32) ∧
      RunsTo (encR 0b0000000#7 rs2 rs1 0b101#3 rd 0b0110011#7) (.srl rd rs1 rs2) s (WroteRegister rd v (s.pc + 4#32) s)) ∧
    (∃ v : Word, v.toInt = a.toInt / 2 ^ (b.toNat % 32) ∧
      RunsTo (encR 0b0100000#7 rs2 rs1 0b101#3 rd 0b0110011#7) (.sra rd rs1 rs2) s (WroteRegister rd v (s.pc + 4#32) s))

/-! ## Multiply and divide instructions (43_muldiv.md) -/

/-- R251 to R254: MUL keeps the exact product modulo 2^32, the others its quotient by 2^32, rounded down. -/
def Obligations.MultiplyResults : Prop :=
  ∀ (rd rs1 rs2 : RegIdx) (s : State),
    let a := s.getX rs1
    let b := s.getX rs2
    (∃ v : Word, v.toNat = a.toNat * b.toNat % 2 ^ 32 ∧
      RunsTo (encR 0b0000001#7 rs2 rs1 0b000#3 rd 0b0110011#7) (.mul rd rs1 rs2) s (WroteRegister rd v (s.pc + 4#32) s)) ∧
    (∃ v : Word, v.toInt = a.toInt * b.toInt / 2 ^ 32 ∧
      RunsTo (encR 0b0000001#7 rs2 rs1 0b001#3 rd 0b0110011#7) (.mulh rd rs1 rs2) s (WroteRegister rd v (s.pc + 4#32) s)) ∧
    (∃ v : Word, v.toInt = a.toInt * b.toNat / 2 ^ 32 ∧
      RunsTo (encR 0b0000001#7 rs2 rs1 0b010#3 rd 0b0110011#7) (.mulhsu rd rs1 rs2) s
        (WroteRegister rd v (s.pc + 4#32) s)) ∧
    (∃ v : Word, v.toNat = a.toNat * b.toNat / 2 ^ 32 ∧
      RunsTo (encR 0b0000001#7 rs2 rs1 0b011#3 rd 0b0110011#7) (.mulhu rd rs1 rs2) s (WroteRegister rd v (s.pc + 4#32) s))

/-- R255 to R258: DIV, DIVU, REM, REMU, with their special cases. -/
def Obligations.DivideResults : Prop :=
  ∀ (rd rs1 rs2 : RegIdx) (s : State),
    let a := s.getX rs1
    let b := s.getX rs2
    let overflow := a = 0x80000000#32 ∧ b = 0xFFFFFFFF#32
    (∃ v : Word, (b = 0#32 → v = 0xFFFFFFFF#32) ∧ (overflow → v = 0x80000000#32) ∧
        (b ≠ 0#32 → ¬overflow → v.toInt = a.toInt.tdiv b.toInt) ∧
      RunsTo (encR 0b0000001#7 rs2 rs1 0b100#3 rd 0b0110011#7) (.div rd rs1 rs2) s (WroteRegister rd v (s.pc + 4#32) s)) ∧
    (∃ v : Word, (b = 0#32 → v = 0xFFFFFFFF#32) ∧ (b ≠ 0#32 → v.toNat = a.toNat / b.toNat) ∧
      RunsTo (encR 0b0000001#7 rs2 rs1 0b101#3 rd 0b0110011#7) (.divu rd rs1 rs2) s (WroteRegister rd v (s.pc + 4#32) s)) ∧
    (∃ v : Word, (b = 0#32 → v = a) ∧ (overflow → v = 0#32) ∧
        (b ≠ 0#32 → ¬overflow → v.toInt = a.toInt - b.toInt * a.toInt.tdiv b.toInt) ∧
      RunsTo (encR 0b0000001#7 rs2 rs1 0b110#3 rd 0b0110011#7) (.rem rd rs1 rs2) s (WroteRegister rd v (s.pc + 4#32) s)) ∧
    (∃ v : Word, (b = 0#32 → v = a) ∧ (b ≠ 0#32 → v.toNat = a.toNat % b.toNat) ∧
      RunsTo (encR 0b0000001#7 rs2 rs1 0b111#3 rd 0b0110011#7) (.remu rd rs1 rs2) s (WroteRegister rd v (s.pc + 4#32) s))

/-- From R250: quotient and remainder of one dividend and divisor satisfy the division equation modulo 2^32 in every case, and the
signed remainder is smaller than the divisor and has the dividend's sign. -/
def Obligations.DivisionEquation : Prop :=
  ∀ (rd rs1 rs2 : RegIdx) (s q r qu ru : State), rd ≠ 0#5 →
    exec (.div rd rs1 rs2) s = .next q → exec (.rem rd rs1 rs2) s = .next r →
    exec (.divu rd rs1 rs2) s = .next qu → exec (.remu rd rs1 rs2) s = .next ru →
    let a := s.getX rs1
    let b := s.getX rs2
    a = b * q.getX rd + r.getX rd ∧
    a = b * qu.getX rd + ru.getX rd ∧
    (b ≠ 0#32 → (r.getX rd).toInt.natAbs < b.toInt.natAbs ∧ (ru.getX rd).toNat < b.toNat) ∧
    (r.getX rd ≠ 0#32 → ((r.getX rd).toInt < 0 ↔ a.toInt < 0))

/-! ## Control transfer (41_control_transfer.md) -/

/-- R211, R212: JAL and JALR; the base register is read before `rd` is written. -/
def Obligations.JumpResults : Prop :=
  (∀ (rd : RegIdx) (off : BitVec 21) (s : State), off.getLsbD 0 = false →
    RunsTo (encJ off rd 0b1101111#7) (.jal rd off) s
      (WroteRegister rd (s.pc + 4#32) (s.pc + off.signExtend 32) s)) ∧
  (∀ (rd rs1 : RegIdx) (imm : BitVec 12) (s : State),
    RunsTo (encI imm rs1 0b000#3 rd 0b1100111#7) (.jalr rd rs1 imm) s
      (WroteRegister rd (s.pc + 4#32) ((s.getX rs1 + imm.signExtend 32) &&& 0xFFFFFFFE#32) s))

/-- R213 to R218: the six conditional branches write nothing but `pc`. -/
def Obligations.BranchResults : Prop :=
  ∀ (rs1 rs2 : RegIdx) (off : BitVec 13) (s : State), off.getLsbD 0 = false →
    let a := s.getX rs1
    let b := s.getX rs2
    let target : Word := s.pc + off.signExtend 32
    let next : Word := s.pc + 4#32
    RunsTo (encB off rs2 rs1 0b000#3 0b1100011#7) (.beq rs1 rs2 off) s (WroteNothing (if a = b then target else next) s) ∧
    RunsTo (encB off rs2 rs1 0b001#3 0b1100011#7) (.bne rs1 rs2 off) s (WroteNothing (if a ≠ b then target else next) s) ∧
    RunsTo (encB off rs2 rs1 0b100#3 0b1100011#7) (.blt rs1 rs2 off) s
      (WroteNothing (if a.toInt < b.toInt then target else next) s) ∧
    RunsTo (encB off rs2 rs1 0b101#3 0b1100011#7) (.bge rs1 rs2 off) s
      (WroteNothing (if a.toInt ≥ b.toInt then target else next) s) ∧
    RunsTo (encB off rs2 rs1 0b110#3 0b1100011#7) (.bltu rs1 rs2 off) s
      (WroteNothing (if a.toNat < b.toNat then target else next) s) ∧
    RunsTo (encB off rs2 rs1 0b111#3 0b1100011#7) (.bgeu rs1 rs2 off) s
      (WroteNothing (if a.toNat ≥ b.toNat then target else next) s)

/-- R219: a control transfer raises nothing; from a target that is misaligned, or aligned and outside TEXT, the NEXT step halts with
EXCEPTION and the target as `fault_pc`, the link register being written already. -/
def Obligations.BadTargetsHaltAtTheNextFetch : Prop :=
  ∀ (i : Instr) (s : State), isTransfer i = true → AboutToStep s →
    ∃ t, exec i s = .next t ∧ t.ctl = s.ctl ∧
      (t.pc.toNat % 4 ≠ 0 →
        ∃ u, step t = .next u ∧ Halted .exception .terminated u ∧ FaultRecord t.pc 0x00000000#32 t.pc u ∧ SameX t u) ∧
      (t.pc.toNat % 4 = 0 → segmentOf t.params.memcfg t.heapPtr t.pc.toNat ≠ some .text →
        ∃ u, step t = .next u ∧ Halted .exception .terminated u ∧ FaultRecord t.pc 0x00000001#32 t.pc u ∧ SameX t u)

/-! ## Loads and stores (42_load_store.md) -/

/-- R231 to R235: the five loads, little-endian, widened, with the faults of R239 and R240. -/
def Obligations.LoadResults : Prop :=
  ∀ (rd rs1 : RegIdx) (imm : BitVec 12) (s : State),
    let ea : Word := s.getX rs1 + imm.signExtend 32
    let b (i : Nat) : Byte := s.byteAt (ea.toNat + i)
    decode (encI imm rs1 0b000#3 rd 0b0000011#7) = .instr (.lb rd rs1 imm) ∧
    LoadRule (.lb rd rs1 imm) rd ea .byte ((b 0).signExtend 32) s ∧
    decode (encI imm rs1 0b001#3 rd 0b0000011#7) = .instr (.lh rd rs1 imm) ∧
    LoadRule (.lh rd rs1 imm) rd ea .half ((b 1 ++ b 0).signExtend 32) s ∧
    decode (encI imm rs1 0b010#3 rd 0b0000011#7) = .instr (.lw rd rs1 imm) ∧
    LoadRule (.lw rd rs1 imm) rd ea .word (b 3 ++ b 2 ++ b 1 ++ b 0) s ∧
    decode (encI imm rs1 0b100#3 rd 0b0000011#7) = .instr (.lbu rd rs1 imm) ∧
    LoadRule (.lbu rd rs1 imm) rd ea .byte ((b 0).setWidth 32) s ∧
    decode (encI imm rs1 0b101#3 rd 0b0000011#7) = .instr (.lhu rd rs1 imm) ∧
    LoadRule (.lhu rd rs1 imm) rd ea .half ((b 1 ++ b 0).setWidth 32) s

/-- R236 to R238: the three stores. The bytes stored to are computed from `x[rs1] + imm_S`; every other byte is unchanged. -/
def Obligations.StoreResults : Prop :=
  ∀ (rs2 rs1 : RegIdx) (imm : BitVec 12) (s : State), s.mem.wf →
    let ea : Word := s.getX rs1 + imm.signExtend 32
    let byte (i : Nat) : Byte := (s.getX rs2).extractLsb' (8 * i) 8
    decode (encS imm rs2 rs1 0b000#3 0b0100011#7) = .instr (.sb rs2 rs1 imm) ∧
    StoreRule (.sb rs2 rs1 imm) ea .byte byte s ∧
    decode (encS imm rs2 rs1 0b001#3 0b0100011#7) = .instr (.sh rs2 rs1 imm) ∧
    StoreRule (.sh rs2 rs1 imm) ea .half byte s ∧
    decode (encS imm rs2 rs1 0b010#3 0b0100011#7) = .instr (.sw rs2 rs1 imm) ∧
    StoreRule (.sw rs2 rs1 imm) ea .word byte s

/-! ## Memory (20_memory.md) -/

/-- R88, R89: which accesses must be aligned, and the check's five outcomes in their order. -/
def Obligations.AccessCheckOrder : Prop :=
  (∀ p : Params, mustAlign p .byte = false ∧ (mustAlign p .half = true ↔ p.halfAlign = .required) ∧
    mustAlign p .word = true ∧ mustAlign p .double = true) ∧
  ∀ (p : Params) (hp a : Word) (w : Width) (k : AccessKind),
    let n := w.bytes
    let seg (i : Nat) := segmentOf p.memcfg hp (a.toNat + i)
    (mustAlign p w = true ∧ a.toNat % n ≠ 0 → resolve p hp a w k = .error (.misaligned k a)) ∧
    (¬(mustAlign p w = true ∧ a.toNat % n ≠ 0) →
      (seg 0 = none → resolve p hp a w k = .error (.access k a)) ∧
      ∀ g, seg 0 = some g →
        ((a.toNat + n - 1 > 0xFFFFFFFF ∨ ∃ i, 1 ≤ i ∧ i < n ∧ seg i ≠ some g) → resolve p hp a w k = .error (.access k a)) ∧
        (¬(a.toNat + n - 1 > 0xFFFFFFFF ∨ ∃ i, 1 ≤ i ∧ i < n ∧ seg i ≠ some g) →
          (policyAllows p g k = false → resolve p hp a w k = .error (.access k a)) ∧
          (policyAllows p g k = true → resolve p hp a w k = .ok g)))

/-- R84: under WF and the bounds of the heap pointer the six segments are exactly the ranges of the table. -/
def Obligations.SegmentMap : Prop :=
  ∀ (c : MemConfig) (hp : Word) (a : Nat), wfConfig c = true →
    c.heapBase.toNat ≤ hp.toNat → hp.toNat ≤ c.stackBase.toNat + 4 →
    let text := c.textBase.toNat ≤ a ∧ a ≤ c.textLimit.toNat + 3
    let data := c.dataSegBase.toNat ≤ a ∧ a < c.heapBase.toNat
    let heap := c.heapBase.toNat ≤ a ∧ a < hp.toNat
    let stack := max hp.toNat c.stackLimit.toNat ≤ a ∧ a ≤ c.stackBase.toNat + 3
    let mmio := c.mmioBase.toNat ≤ a ∧ a ≤ c.mmioLimit.toNat
    let kernel := c.kernelBase.toNat ≤ a ∧ a ≤ c.kernelHigh.toNat
    (segmentOf c hp a = some .text ↔ text) ∧ (segmentOf c hp a = some .data ↔ data) ∧
    (segmentOf c hp a = some .heap ↔ heap) ∧ (segmentOf c hp a = some .stack ↔ stack) ∧
    (segmentOf c hp a = some .mmio ↔ mmio) ∧ (segmentOf c hp a = some .kernel ↔ kernel ∧ ¬mmio) ∧
    (segmentOf c hp a = none ↔ ¬text ∧ ¬data ∧ ¬heap ∧ ¬stack ∧ ¬mmio ∧ ¬kernel)

/-- R85: the policy table, and that a denied access fails with the access fault; the text-store entry is R92's text protection. -/
def Obligations.AccessPolicyTable : Prop :=
  ∀ p : Params,
    (policyAllows p .text .load = true ↔ p.textLoadPolicy = .allow ∨ p.smcEnabled = true) ∧
    (policyAllows p .text .store = true ↔ p.smcEnabled = true) ∧ policyAllows p .text .fetch = true ∧
    (∀ g ∈ [Segment.data, .heap, .stack, .mmio], policyAllows p g .load = true ∧ policyAllows p g .store = true) ∧
    (policyAllows p .kernel .load = true ↔ p.kernelPolicy = .rw) ∧
    (policyAllows p .kernel .store = true ↔ p.kernelPolicy = .rw) ∧
    (∀ g, g ≠ .text → policyAllows p g .fetch = false) ∧
    (∀ (hp a : Word) (w : Width) (k : AccessKind) (g : Segment), segmentOf p.memcfg hp a.toNat = some g →
      policyAllows p g k = false → ¬(mustAlign p w = true ∧ a.toNat % w.bytes ≠ 0) →
      resolve p hp a w k = .error (.access k a))

/-- From R83, R88, R89, R95: under WF, with the heap pointer in its bounds and a multiple of 4 and `HALF_ALIGN = required`, no access of
an instruction fails at step 3: an access fault says that its first byte is unmapped or the segment's policy denies it. -/
def Obligations.AlignedAccessesNeverCross : Prop :=
  ∀ (p : Params) (hp a : Word) (w : Width) (k : AccessKind), wfConfig p.memcfg = true →
    p.memcfg.heapBase.toNat ≤ hp.toNat → hp.toNat ≤ p.memcfg.stackBase.toNat + 4 → hp.toNat % 4 = 0 →
    p.halfAlign = .required → w ≠ .double → resolve p hp a w k = .error (.access k a) →
    segmentOf p.memcfg hp a.toNat = none ∨ ∃ g, segmentOf p.memcfg hp a.toNat = some g ∧ policyAllows p g k = false

/-- R86, R90, R91: a read gives the bytes, the lowest address lowest, and changes nothing; a write sets the bytes so, and no other; a
failed check fails both. -/
def Obligations.MemoryPorts : Prop :=
  ∀ (a : Word) (w : Width) (s : State), s.mem.wf →
    (∀ g, resolve s.params s.heapPtr a w .load = .ok g → ∃ v : Dword, memRead a w s = .ok v ∧ v.toNat < 2 ^ (8 * w.bytes) ∧
      ∀ i, i < w.bytes → v.extractLsb' (8 * i) 8 = s.byteAt (a.toNat + i)) ∧
    (∀ e, resolve s.params s.heapPtr a w .load = .error e → memRead a w s = .error e) ∧
    (∀ (v : Dword) (g : Segment), resolve s.params s.heapPtr a w .store = .ok g → ∃ t, memWrite a w v s = .ok t ∧
      (∀ i, i < w.bytes → t.byteAt (a.toNat + i) = v.extractLsb' (8 * i) 8) ∧ SameMemoryExcept a.toNat w.bytes s t ∧
      t = { s with mem := t.mem } ∧ t.mem.wf) ∧
    (∀ (v : Dword) (e : AccessFault), resolve s.params s.heapPtr a w .store = .error e → memWrite a w v s = .error e)

/-- R97, R98: a write followed by a read of the same place and width returns the value, cut to the width; at an unmapped address a read
and a write fail with the fault at that address, and return no value. With R104: a word stored in the text segment is the word that
a fetch there gives at once. -/
def Obligations.WriteThenReadAndUnmapped : Prop :=
  (∀ (a : Word) (w : Width) (v : Dword) (s : State), s.mem.wf →
    (∃ g, resolve s.params s.heapPtr a w .store = .ok g) → (∃ g, resolve s.params s.heapPtr a w .load = .ok g) →
    ∃ t, memWrite a w v s = .ok t ∧ memRead a w t = .ok (BitVec.ofNat 64 (v.toNat % 2 ^ (8 * w.bytes)))) ∧
  (∀ (a : Word) (w : Width) (s : State), segmentOf s.params.memcfg s.heapPtr a.toNat = none →
    let misaligned := mustAlign s.params w = true ∧ a.toNat % w.bytes ≠ 0
    memRead a w s = .error (if misaligned then .misaligned .load a else .access .load a) ∧
    ∀ v, memWrite a w v s = .error (if misaligned then .misaligned .store a else .access .store a)) ∧
  (∀ (a : Word) (v : Dword) (s t : State), s.mem.wf → memWrite a .word v s = .ok t →
    segmentOf s.params.memcfg s.heapPtr a.toNat = some .text → fetch a t = .ok (v.setWidth 32))

/-- From R95: `allocateHeap`: when it fails and what it does. That it keeps the pointer a multiple of 4 and in its bounds is the sentence
of R95 that the spec marks `[derived: from rule R83 and this rule]` (log 30). -/
def Obligations.HeapAllocation : Prop :=
  ∀ (n : Int) (s : State),
    let n' := (n + 3) / 4 * 4
    let new : Int := s.heapPtr.toNat + n'
    ((n < 0 ∨ new > (stackFloor s).toNat ∨ new > s.params.memcfg.stackBase.toNat + 4) → allocateHeap n s = none) ∧
    (¬(n < 0 ∨ new > (stackFloor s).toNat ∨ new > s.params.memcfg.stackBase.toNat + 4) →
      ∃ t, allocateHeap n s = some (s.heapPtr, t) ∧ (t.heapPtr.toNat : Int) = new ∧ t = { s with heapPtr := t.heapPtr } ∧
        (s.heapPtr.toNat % 4 = 0 → t.heapPtr.toNat % 4 = 0) ∧ t.heapPtr.toNat ≤ s.params.memcfg.stackBase.toNat + 4 ∧
        s.heapPtr.toNat ≤ t.heapPtr.toNat) ∧
    (s.params.stackFloor = .currentSp → stackFloor s = s.getX 2#5)

/-! ## System instructions (44_system.md) -/

/-- R270, R271, R277: FENCE and FENCE.I with any fields, and WFI, change only `pc` and the counters. -/
def Obligations.FencesAndWaitDoNothing : Prop :=
  ∀ (fm pred succ : BitVec 4) (imm : BitVec 12) (rs1 rd : RegIdx) (s : State),
    RunsTo (encI (fm ++ pred ++ succ) rs1 0b000#3 rd 0b0001111#7) (.fence fm pred succ rs1 rd) s
      (WroteNothing (s.pc + 4#32) s) ∧
    RunsTo (encI imm rs1 0b001#3 rd 0b0001111#7) (.fenceI imm rs1 rd) s (WroteNothing (s.pc + 4#32) s) ∧
    RunsTo 0x10500073#32 .wfi s (WroteNothing (s.pc + 4#32) s)

/-- From R272: ECALL by the environment's three outcomes. Continue applies the register values (of several for one register the last; none
for register 0), the memory writes and the allocations, and the instruction completes. The accesses are the model's one ordered list
(log 13). -/
def Obligations.EcallOutcomes : Prop :=
  ∀ s : State, decode 0x00000073#32 = .instr .ecall ∧
    (∀ code, envAnswer s = .exit code → ∃ t, exec .ecall s = .next t ∧ Halted .normalTermination .terminated t ∧
      t.run.exitCode = code ∧ SameProgramState s t) ∧
    (∀ cause value, envAnswer s = .raise cause value → ∃ t, exec .ecall s = .next t ∧ Halted .exception .terminated t ∧
      FaultRecord s.pc cause value t ∧ SameProgramState s t) ∧
    (∀ xs fs l, envAnswer s = .continues xs fs l → (envAccesses l s).2 = none → ∃ t, exec .ecall s = .next t ∧
      t.pc = s.pc + 4#32 ∧ Counted s t ∧ SameCsrs s t ∧ t.ctl = s.ctl ∧ t.run = s.run ∧ t.params = s.params ∧
      (∀ i : RegIdx, t.getX i = if i = 0#5 then 0#32 else (xs.reverse.lookup i).getD (s.getX i)) ∧
      (∀ i : RegIdx, t.getF i = (fs.reverse.lookup i).getD (s.getF i)) ∧
      SameMemory (envAccesses l s).1 t ∧ t.heapPtr = (envAccesses l s).1.heapPtr)

/-- From R273, R95: the environment's accesses are performed in order; a successful allocation goes on at the state `allocateHeap` gives,
a failed one goes on unchanged; the first memory access that fails ends the run with the exception of its fault at the ECALL's
address, what was done before it stays done, no register changes. The one ordered list, and that a failed allocation does not end
it, are the model's form of the accesses (log 13). -/
def Obligations.EnvironmentFaultsAreTranslated : Prop :=
  (∀ s : State, envAccesses [] s = (s, none)) ∧
  (∀ (a : Word) (w : Width) (l : List EnvAccess) (s : State),
    envAccesses (.read a w :: l) s =
      match memRead a w s with
      | .ok _ => envAccesses l s
      | .error e => (s, some e)) ∧
  (∀ (a : Word) (w : Width) (v : Dword) (l : List EnvAccess) (s : State),
    envAccesses (.write a w v :: l) s =
      match memWrite a w v s with
      | .ok t => envAccesses l t
      | .error e => (s, some e)) ∧
  (∀ (n : Int) (l : List EnvAccess) (s : State),
    (∀ old t, allocateHeap n s = some (old, t) → envAccesses (.alloc n :: l) s = envAccesses l t) ∧
    (allocateHeap n s = none → envAccesses (.alloc n :: l) s = envAccesses l s)) ∧
  ∀ (s : State) (xs : List (RegIdx × Word)) (fs : List (RegIdx × Dword)) (l : List EnvAccess) (e : AccessFault),
    envAnswer s = .continues xs fs l → (envAccesses l s).2 = some e →
    ∃ t, exec .ecall s = .next t ∧ Halted .exception .terminated t ∧ FaultRecord s.pc e.cause e.value t ∧ SameX s t ∧
      SameF s t ∧ SameCsrs s t ∧ SameCounters s t ∧ t.ctl = s.ctl ∧ SameMemory (envAccesses l s).1 t ∧
      t.heapPtr = (envAccesses l s).1.heapPtr

/-- From R273: the environment's answer depends on nothing but the two register files, memory, the heap pointer, the environment chosen
at launch, and the draw: not on `pc`, a CSR, the controller or the run-control state. -/
def Obligations.EnvironmentSeesNoMore : Prop :=
  ∀ s t : State, t.x = s.x → t.f = s.f → t.mem = s.mem → t.heapPtr = s.heapPtr → t.params.env = s.params.env →
    t.draws = s.draws → envAnswer t = envAnswer s

/-- R274: the reference environment. -/
def Obligations.ReferenceEnvironment : Prop :=
  ∀ s : State, s.params.env = .reference →
    (s.getX 17#5 = 10#32 → envAnswer s = .exit 0#32) ∧
    (s.getX 17#5 = 93#32 → envAnswer s = .exit (s.getX 10#5)) ∧
    (s.getX 17#5 ≠ 10#32 → s.getX 17#5 ≠ 93#32 → envAnswer s = .raise 0x00000008#32 0#32)

/-- R275: EBREAK completes, advances, is counted, and pauses with BREAKPOINT; no trap is registered. -/
def Obligations.EbreakPauses : Prop :=
  ∀ s : State, RunsTo 0x00100073#32 .ebreak s fun t =>
    t.pc = s.pc + 4#32 ∧ Halted .breakpoint .paused t ∧ Counted s t ∧ SameX s t ∧ SameF s t ∧ SameCsrs s t ∧ SameMemory s t ∧
    t.ctl = s.ctl ∧ t.heapPtr = s.heapPtr ∧ t.params = s.params

/-- R276: URET. -/
def Obligations.UretReturns : Prop :=
  ∀ s : State, RunsTo 0x00200073#32 .uret s fun t =>
    t.csr.ustatus.getLsbD 0 = s.csr.ustatus.getLsbD 4 ∧
    t.csr.ustatus.getLsbD 4 = s.params.uretUpieAfter ∧
    t.csr.ustatus &&& 0xFFFFFFEE#32 = s.csr.ustatus &&& 0xFFFFFFEE#32 ∧
    SameCsrs { s with csr := { s.csr with ustatus := t.csr.ustatus } } t ∧
    SameX s t ∧ SameMemory s t ∧ Completed s.csr.uepc s t

/-- R281 to R286: the six CSR instructions; the set and clear forms skip the write for `rs1 = 0` and `uimm = 0`. -/
def Obligations.CsrInstructionResults : Prop :=
  ∀ (rd : RegIdx) (n : CsrNum) (r : BitVec 5) (s : State),
    let old := csrRead n s
    let a := s.getX r
    let u : Word := r.setWidth 32
    RunsTo (encI n r 0b001#3 rd 0b1110011#7) (.csrrw rd n r) s (WroteCsr rd n a s) ∧
    RunsTo (encI n r 0b010#3 rd 0b1110011#7) (.csrrs rd n r) s
      (if r = 0#5 then WroteRegister rd old (s.pc + 4#32) s else WroteCsr rd n (old ||| a) s) ∧
    RunsTo (encI n r 0b011#3 rd 0b1110011#7) (.csrrc rd n r) s
      (if r = 0#5 then WroteRegister rd old (s.pc + 4#32) s else WroteCsr rd n (old &&& ~~~a) s) ∧
    RunsTo (encI n r 0b101#3 rd 0b1110011#7) (.csrrwi rd n r) s (WroteCsr rd n u s) ∧
    RunsTo (encI n r 0b110#3 rd 0b1110011#7) (.csrrsi rd n r) s
      (if r = 0#5 then WroteRegister rd old (s.pc + 4#32) s else WroteCsr rd n (old ||| u) s) ∧
    RunsTo (encI n r 0b111#3 rd 0b1110011#7) (.csrrci rd n r) s
      (if r = 0#5 then WroteRegister rd old (s.pc + 4#32) s else WroteCsr rd n (old &&& ~~~u) s)

/-! ## The CSR file (10_state.md) -/

/-- R33, R53, R55, with the table of R38: plain CSRs take the value, `ustatus` and `fcsr` outside their mask, the counters and the
unimplemented numbers ignore the write, and the unimplemented numbers read 0. -/
def Obligations.CsrWriteVariants : Prop :=
  ∀ (v : Word) (s : State),
    (∀ n ∈ [0x004#12, 0x005#12, 0x040#12, 0x041#12, 0x042#12, 0x043#12, 0x044#12], csrRead n (csrWrite n v s) = v) ∧
    csrRead 0x000#12 (csrWrite 0x000#12 v s) = (csrRead 0x000#12 s &&& 0xFFFFFFEE#32) ||| (v &&& 0x00000011#32) ∧
    csrRead 0x003#12 (csrWrite 0x003#12 v s) = (csrRead 0x003#12 s &&& 0xFFFFFF00#32) ||| (v &&& 0x000000FF#32) ∧
    (∀ n ∈ [0xC00#12, 0xC01#12, 0xC02#12, 0xC80#12, 0xC81#12, 0xC82#12], csrWrite n v s = s) ∧
    (∀ n : CsrNum, n ∉ [0x000#12, 0x001#12, 0x002#12, 0x003#12, 0x004#12, 0x005#12, 0x040#12, 0x041#12, 0x042#12, 0x043#12,
        0x044#12, 0xC00#12, 0xC01#12, 0xC02#12, 0xC80#12, 0xC81#12, 0xC82#12] →
      csrRead n s = 0#32 ∧ csrWrite n v s = s) ∧
    (∀ n m : CsrNum, n ≠ m → ¬(n ∈ [0x001#12, 0x002#12, 0x003#12] ∧ m ∈ [0x001#12, 0x002#12, 0x003#12]) →
      csrRead m (csrWrite n v s) = csrRead m s)

/-- R34, with R40, R41, R50 to R52: the linked CSRs read their slice, a write of `fflags` or `frm` changes exactly the slice of `fcsr`,
and each pair of counter CSRs is one 64-bit cell. -/
def Obligations.LinkedCsrsShareOneCell : Prop :=
  ∀ (v : Word) (s : State),
    csrRead 0x001#12 s = csrRead 0x003#12 s &&& 0x1F#32 ∧
    csrRead 0x002#12 s = (csrRead 0x003#12 s >>> 5) &&& 0x7#32 ∧
    csrRead 0x003#12 (csrWrite 0x001#12 v s) = (csrRead 0x003#12 s &&& 0xFFFFFFE0#32) ||| (v &&& 0x1F#32) ∧
    csrRead 0x003#12 (csrWrite 0x002#12 v s) = (csrRead 0x003#12 s &&& 0xFFFFFF1F#32) ||| ((v &&& 0x7#32) <<< 5) ∧
    csrRead 0x001#12 (csrWrite 0x001#12 v s) = v &&& 0x1F#32 ∧ csrRead 0x002#12 (csrWrite 0x002#12 v s) = v &&& 0x7#32 ∧
    csrRead 0xC80#12 s ++ csrRead 0xC00#12 s = s.csr.cycle64 ∧
    csrRead 0xC81#12 s ++ csrRead 0xC01#12 s = s.csr.time64 ∧
    csrRead 0xC82#12 s ++ csrRead 0xC02#12 s = s.csr.instret64

/-! ## Exceptions and interrupts (60_exceptions.md) -/

/-- R350: raising registers the trap and advances; with a trap pending already it halts with the fault record. -/
def Obligations.RaiseRegistersOrHalts : Prop :=
  ∀ (cause value : Word) (s : State),
    (s.ctl.trapPending = false → Raised cause value s (raise cause value s)) ∧
    (s.ctl.trapPending = true → Halted .exception .terminated (raise cause value s) ∧
      FaultRecord s.pc cause value (raise cause value s) ∧ SameProgramState s (raise cause value s))

/-- From R345, R346, R348, R349, R351: one registration of a kind until it is claimed. An accepted one sets the flag and the payload of
its kind and nothing else, a rejected one changes nothing, a claim clears the flag and nothing else. That the timer pair does the same
as the external one over such a sequence is the sentence of R351 that the spec marks `[derived: from rule R345, rule R346 and rule
R348]` (log 30). A step whose agenda begins with a registration performs it and records its answer (log 2, 24). -/
def Obligations.RegistrationIsClaimOnce : Prop :=
  ∀ (x y z : Word) (s : State),
    let ext (flag : Bool) (v : Word) : State := { s with ctl := { s.ctl with extPending := flag, extValue := v } }
    let tmr (flag : Bool) (v : Word) : State := { s with ctl := { s.ctl with tmrPending := flag, tmrValue := v } }
    (s.ctl.extPending = false →
      registerExternal x s = (true, ext true x) ∧ registerExternal y (ext true x) = (false, ext true x) ∧
      claimExternal (ext true x) = some (x, ext false x) ∧ registerExternal z (ext false x) = (true, ext true z) ∧
      claimExternal s = none) ∧
    (s.ctl.tmrPending = false →
      registerTimer x s = (true, tmr true x) ∧ registerTimer y (tmr true x) = (false, tmr true x) ∧
      claimTimer (tmr true x) = some (x, tmr false x) ∧ registerTimer z (tmr false x) = (true, tmr true z) ∧
      claimTimer s = none) ∧
    (s.ctl.extPending = true →
      registerExternal x s = (false, s) ∧ claimExternal s = some (s.ctl.extValue, ext false s.ctl.extValue)) ∧
    (s.ctl.tmrPending = true →
      registerTimer x s = (false, s) ∧ claimTimer s = some (s.ctl.tmrValue, tmr false s.ctl.tmrValue)) ∧
    (∀ rest : List PortOp, s.agenda = .registerExternal x :: rest →
      (s.ctl.extPending = false → step s = .next { ext true x with agenda := rest, answer := .accepted }) ∧
      (s.ctl.extPending = true → step s = .next { s with agenda := rest, answer := .rejected })) ∧
    (∀ rest : List PortOp, s.agenda = .registerTimer x :: rest →
      (s.ctl.tmrPending = false → step s = .next { tmr true x with agenda := rest, answer := .accepted }) ∧
      (s.ctl.tmrPending = true → step s = .next { s with agenda := rest, answer := .rejected }))

/-- R354, R355, R358, R352: the check takes the first event that qualifies in the order trap, external, software, timer, claims it, and
rewrites the two mirror bits from the flags that are left; a stale trap is an assertion failure. -/
def Obligations.CheckSelectsByPriority : Prop :=
  ∀ s : State,
    let ie := s.csr.ustatus.getLsbD 0 = true
    let ext := ie ∧ s.ctl.extPending = true ∧ s.csr.uie.getLsbD 8 = true
    let soft := ie ∧ s.csr.uip.getLsbD 0 = true ∧ s.csr.uie.getLsbD 0 = true
    let timer := ie ∧ s.ctl.tmrPending = true ∧ s.csr.uie.getLsbD 4 = true
    let ip := s.csr.uip
    (s.ctl.trapPending = true → s.ctl.trapPc = s.pc - 4#32 →
      ∃ t, check s = .event ⟨false, s.ctl.trapCause, s.ctl.trapValue, s.ctl.trapPc⟩ t ∧
        Checked { s.ctl with trapPending := false } ip s t) ∧
    (s.ctl.trapPending = true → s.ctl.trapPc ≠ s.pc - 4#32 →
      ∃ t, check s = .violation t ∧ Halted .invariantViolation .terminated t ∧ SameProgramState s t) ∧
    (s.ctl.trapPending = false → ext →
      ∃ t, check s = .event ⟨true, 0x80000008#32, s.ctl.extValue, s.pc⟩ t ∧
        Checked { s.ctl with extPending := false } ip s t) ∧
    (s.ctl.trapPending = false → ¬ext → soft →
      ∃ t, check s = .event ⟨true, 0x80000000#32, 0#32, s.pc⟩ t ∧ Checked s.ctl (ip &&& 0xFFFFFFFE#32) s t) ∧
    (s.ctl.trapPending = false → ¬ext → ¬soft → timer →
      ∃ t, check s = .event ⟨true, 0x80000004#32, s.ctl.tmrValue, s.pc⟩ t ∧
        Checked { s.ctl with tmrPending := false } ip s t) ∧
    (s.ctl.trapPending = false → ¬ext → ¬soft → ¬timer → ∃ t, check s = .nothing t ∧ Checked s.ctl ip s t)

/-- R360 to R362: trap entry: an interrupt with `MODE != 0` is refused; otherwise the event goes to the handler, or the run ends. -/
def Obligations.TrapEntry : Prop :=
  ∀ (e : TrapEvent) (s : State),
    (e.isInterrupt = true → s.csr.utvec &&& 0x3#32 ≠ 0#32 → enterTrap e s = .refused .reservedVectorMode) ∧
    (¬(e.isInterrupt = true ∧ s.csr.utvec &&& 0x3#32 ≠ 0#32) → HandlerPresent s →
      ∃ t, enterTrap e s = .next t ∧ Entered e s t) ∧
    (¬(e.isInterrupt = true ∧ s.csr.utvec &&& 0x3#32 ≠ 0#32) → ¬HandlerPresent s →
      ∃ t, enterTrap e s = .next t ∧ Unhandled e s t)

/-- From R350, R355, R360, R361, R364, R410: the headline of synchronous exceptions. An instruction word at `pc` that raises has no effect of its
own; the next step, whatever word it fetched, delivers the trap: with a handler the core is at it, with the cause, the value and
the address of the instruction saved; without one the run ends with that fault record. No register, byte or counter has changed. -/
def Obligations.FaultsAreDeliveredPrecisely : Prop :=
  ∀ (s s' : State) (w w' : Word) (cause value : Word) (t : State), AboutToStep s → Unlimited s → NoEvent s →
    fetch s.pc s = .ok w → fetch (s.pc + 4#32) s = .ok w' →
    check s = .nothing s' → execWord exec w s' = .next t → Raised cause value s' t →
    ∃ u, step s = .next t ∧ step t = .next u ∧ SameX s u ∧ SameF s u ∧ SameMemory s u ∧ SameCounters s u ∧
      u.csr.ucause = cause ∧ u.csr.uepc = s.pc ∧ u.csr.utval = value ∧ u.ctl.trapPending = false ∧
      (HandlerPresent s → AboutToStep u ∧ u.pc = s.csr.utvec &&& 0xFFFFFFFC#32 ∧
        u.csr.ustatus = (s.csr.ustatus &&& 0xFFFFFFFE#32) ||| 0x10#32) ∧
      (¬HandlerPresent s → Halted .exception .terminated u ∧ FaultRecord s.pc cause value u)

/-- From R355, R360, R364, R276: an interrupt is precise and returns. The step that takes it executes nothing; when the handler's first
word is URET, the step after it is back at the interrupted instruction with interrupts enabled and `UPIE` at its parameter, every
register and byte as before. -/
def Obligations.InterruptsReturnToTheInterrupted : Prop :=
  ∀ (s s' : State) (w : Word) (e : TrapEvent), AboutToStep s → Unlimited s → Inv s → fetch s.pc s = .ok w →
    check s = .event e s' → e.isInterrupt = true → s.csr.utvec &&& 0x3#32 = 0#32 →
    fetch (s.csr.utvec &&& 0xFFFFFFFC#32) s = .ok 0x00200073#32 →
    ∃ t u, step s = .next t ∧ step t = .next u ∧ t.pc = s.csr.utvec &&& 0xFFFFFFFC#32 ∧ t.csr.uepc = s.pc ∧
      SameCounters s t ∧ t.csr.ucause = e.cause ∧ t.csr.utval = e.value ∧
      u.pc = s.pc ∧ u.csr.ustatus = (if s.params.uretUpieAfter then 0x11#32 else 0x1#32) ∧ SameX s u ∧ SameF s u ∧ SameMemory s u ∧ AboutToStep u

/-! ## The step and run control (50_step_and_run_control.md, 70_reset_and_hazards.md)

The statements about port operations take them from the model's agenda (log 2). -/

/-- From R304 to R307, R312, R313: when the core is about to step, the four bytes at `pc` can be fetched and decode to `i`, and the check
finds no event, then the step is `exec i`, at the state with the mirror bits of `uip` refreshed, followed by S5. -/
def Obligations.StepRunsDecodedInstruction : Prop :=
  ∀ (s : State) (i : Instr) (g : Segment), AboutToStep s → NoEvent s →
    resolve s.params s.heapPtr s.pc .word .fetch = .ok g →
    decodeBytes (s.byteAt s.pc.toNat) (s.byteAt (s.pc.toNat + 1)) (s.byteAt (s.pc.toNat + 2)) (s.byteAt (s.pc.toNat + 3)) =
      .instr i →
    ∃ s', check s = .nothing s' ∧ Checked s.ctl s.csr.uip s s' ∧
      step s = onNext (exec i s') (fun t => .next (finishStep t))

/-- R308: the null word ends the run with CLIFF_TERMINATION; no trap is registered, no CSR but the mirror bits of the check is written,
the counters do not move. An event at the check is taken first. -/
def Obligations.NullWordEndsTheRun : Prop :=
  ∀ (s s' : State), AboutToStep s → fetch s.pc s = .ok 0x00000000#32 →
    (check s = .nothing s' →
      ∃ t, step s = .next t ∧ Halted .cliffTermination .terminated t ∧ SameProgramState s' t) ∧
    (∀ e, check s = .event e s' → step s = onNext (enterTrap e s') (fun t => .next (finishStep t)))

/-- R305, R370, R371: a fetch that fails halts with EXCEPTION, even when an event is pending; the pending flags are left, no CSR is
written, nothing is registered. -/
def Obligations.FetchFaultsHalt : Prop :=
  ∀ s : State, AboutToStep s →
    (s.pc.toNat % 4 ≠ 0 → ∃ t, step s = .next t ∧ Halted .exception .terminated t ∧
      FaultRecord s.pc 0x00000000#32 s.pc t ∧ SameProgramState s t) ∧
    (s.pc.toNat % 4 = 0 → segmentOf s.params.memcfg s.heapPtr s.pc.toNat ≠ some .text →
      ∃ t, step s = .next t ∧ Halted .exception .terminated t ∧ FaultRecord s.pc 0x00000001#32 s.pc t ∧ SameProgramState s t)

/-- From R324: `pause()` and `stop()` set their request only while RUNNING; the next step halts before fetching, STOP before PAUSE. -/
def Obligations.PauseAndStopAtStepTop : Prop :=
  (∀ (s : State) (rest : List PortOp), s.agenda = .pause :: rest → ∃ t, step s = .next t ∧
    (s.run.runState = .running → t = { s with agenda := rest, answer := .accepted, run := { s.run with pauseReq := true } }) ∧
    (s.run.runState ≠ .running → t = { s with agenda := rest, answer := .rejected })) ∧
  (∀ (s : State) (rest : List PortOp), s.agenda = .stop :: rest → ∃ t, step s = .next t ∧
    (s.run.runState = .running → t = { s with agenda := rest, answer := .accepted, run := { s.run with stopReq := true } }) ∧
    (s.run.runState ≠ .running → t = { s with agenda := rest, answer := .rejected })) ∧
  (∀ s : State, s.agenda = [] → s.run.runState = .running → s.run.stopReq = true →
    ∃ t, step s = .next t ∧ Halted .stop .stopped t ∧ t.pc = s.pc ∧ SameProgramState s t) ∧
  (∀ s : State, s.agenda = [] → s.run.runState = .running → s.run.stopReq = false → s.run.pauseReq = true →
    ∃ t, step s = .next t ∧ Halted .pause .paused t ∧ t.pc = s.pc ∧ SameProgramState s t)

/-- From R313: S5 on a core still RUNNING: one unit of a finite budget is used, then the new `pc` is tested against the breakpoints, then the
budget; BREAKPOINT wins; `pc` is unchanged. -/
def Obligations.BudgetAndBreakpoints : Prop :=
  ∀ s : State, s.run.runState = .running →
    (finishStep s).run.stepsLeft = s.run.stepsLeft.map (· - 1) ∧ (finishStep s).pc = s.pc ∧
    SameProgramState s (finishStep s) ∧
    (s.pc ∈ s.run.breakpoints → Halted .breakpoint .paused (finishStep s)) ∧
    (s.pc ∉ s.run.breakpoints → s.run.stepsLeft = some 1 → Halted .maxSteps .paused (finishStep s)) ∧
    (s.pc ∉ s.run.breakpoints → s.run.stepsLeft ≠ some 1 → (finishStep s).run.runState = .running)

/-- From R320, R321, R322: `start` and `step()` are accepted when STOPPED or PAUSED, and set the breakpoints, the budget, the requests and the
run state only; otherwise they are rejected and change nothing. -/
def Obligations.StartCommand : Prop :=
  ∀ (s : State) (n : Int) (bps : List Word) (rest : List PortOp),
    (s.agenda = .start n bps :: rest ∨ (s.agenda = .stepOnce :: rest ∧ n = 1 ∧ bps = [])) →
    ∃ t, step s = .next t ∧ t.agenda = rest ∧ SameProgramState s t ∧ t.pc = s.pc ∧
      (s.run.runState = .stopped ∨ s.run.runState = .paused → t.answer = .accepted ∧ t.run.runState = .running ∧
        t.run.stepsLeft = (if n > 0 then some n else none) ∧ (∀ a, a ∈ t.run.breakpoints ↔ a ∈ bps) ∧
        t.run.stopReq = false ∧ t.run.pauseReq = false) ∧
      (s.run.runState = .running ∨ s.run.runState = .terminated → t.answer = .rejected ∧ t.run = s.run)

/-- R61: the values after reset that the spec gives, at `State.reset`, in terms of its own parameters. -/
def Obligations.ResetValues : Prop :=
  let s := State.reset
  let c := s.params.memcfg
  (∀ i : RegIdx, s.getX i = if i = 2#5 then c.stackPointer else if i = 3#5 then c.globalPointer else 0#32) ∧
  s.pc = s.params.entryPc ∧ s.params.entryPc = c.textBase ∧ (∀ i : RegIdx, s.getF i = 0#64) ∧
  (∀ n : CsrNum, csrRead n s = 0#32) ∧ s.csr.cycle64 = 0#64 ∧ s.csr.instret64 = 0#64 ∧ s.csr.time64 = 0#64 ∧
  (∀ a : Nat, s.byteAt a = 0#8) ∧ s.heapPtr = c.heapBase ∧
  s.ctl.extPending = false ∧ s.ctl.tmrPending = false ∧ s.ctl.trapPending = false ∧
  s.run.runState = .stopped ∧ s.run.stopReq = false ∧ s.run.pauseReq = false

/-- From R400, R359: the command `reset()` from every run state, under the parameters in force, which it does not change. That a RUNNING core
is stopped within the command is the model's form (log 17). -/
def Obligations.ResetCommand : Prop :=
  ∀ (s : State) (rest : List PortOp), s.agenda = .reset :: rest →
    ∃ t, step s = .next t ∧ t.agenda = rest ∧ t.params = s.params ∧
      (∀ i : RegIdx, t.getX i =
        if i = 2#5 then s.params.memcfg.stackPointer else if i = 3#5 then s.params.memcfg.globalPointer else 0#32) ∧
      t.pc = s.params.entryPc ∧ (∀ i : RegIdx, t.getF i = 0#64) ∧ (∀ n : CsrNum, csrRead n t = 0#32) ∧
      t.csr.cycle64 = 0#64 ∧ t.csr.time64 = 0#64 ∧ t.csr.instret64 = 0#64 ∧
      (∀ a : Nat, t.byteAt a = 0#8) ∧ t.heapPtr = s.params.memcfg.heapBase ∧
      t.ctl = { s.ctl with extPending := false, tmrPending := false, trapPending := false } ∧
      t.run.runState = .stopped ∧ t.run.stopReq = false ∧ t.run.pauseReq = false

/-- From R404: `load(image, entry)` on a core that is not RUNNING, for an image inside the segments: a reset, the bytes written directly
whatever the policy, and the entry. The image's addresses differ from one another here (log 29 names what the model does
otherwise). An image outside the segments is refused, a load of a RUNNING core rejected (log 15, 16). -/
def Obligations.LoadCommand : Prop :=
  ∀ (s : State) (image : List (Word × Byte)) (entry : Word) (rest : List PortOp), s.agenda = .load image entry :: rest →
    (s.run.runState ≠ .running →
      (∀ p ∈ image, segmentOf s.params.memcfg s.params.memcfg.heapBase p.1.toNat ≠ none) →
      (image.map (·.1)).Nodup →
      ∃ t, step s = .next t ∧ t.agenda = rest ∧ t.pc = entry ∧ t.params = { s.params with entryPc := entry } ∧
        (∀ p ∈ image, t.byteAt p.1.toNat = p.2) ∧
        (∀ a : Nat, (∀ p ∈ image, p.1.toNat ≠ a) → t.byteAt a = 0#8) ∧
        t.run.runState = .stopped ∧ t.heapPtr = s.params.memcfg.heapBase ∧ t.ctl.extPending = false ∧
        t.ctl.tmrPending = false ∧ t.ctl.trapPending = false ∧ (∀ n : CsrNum, csrRead n t = 0#32) ∧
        (∀ i : RegIdx, t.getX i =
          if i = 2#5 then s.params.memcfg.stackPointer else if i = 3#5 then s.params.memcfg.globalPointer else 0#32) ∧
        (∀ i : RegIdx, t.getF i = 0#64)) ∧
    (s.run.runState ≠ .running → (∃ p ∈ image, segmentOf s.params.memcfg s.params.memcfg.heapBase p.1.toNat = none) →
      step s = .refused .illFormedImage) ∧
    (s.run.runState = .running → step s = .next { s with agenda := rest, answer := .rejected })

/-- From R405: `setMemoryConfiguration(cfg)` on a core that is not RUNNING, for a well-formed `cfg`. -/
def Obligations.ConfigurationSwitch : Prop :=
  ∀ (s : State) (c : MemConfig) (rest : List PortOp), s.agenda = .setMemoryConfiguration c :: rest →
    s.run.runState ≠ .running → wfConfig c = true →
    ∃ t, step s = .next t ∧ t.agenda = rest ∧ t.params = { s.params with memcfg := c, entryPc := c.textBase } ∧
      (∀ i : RegIdx, t.getX i = if i = 2#5 then c.stackPointer else if i = 3#5 then c.globalPointer else 0#32) ∧
      t.pc = c.textBase ∧ (∀ a : Nat, t.byteAt a = 0#8) ∧ t.heapPtr = c.heapBase ∧ (∀ i : RegIdx, t.getF i = 0#64) ∧
      (∀ n : CsrNum, csrRead n t = 0#32) ∧ t.run.runState = .stopped ∧ t.run.stopReq = false ∧ t.run.pauseReq = false ∧
      t.ctl = { s.ctl with extPending := false, tmrPending := false, trapPending := false }

/-- From R327, R101, R8: while the core is RUNNING the host reads and edits nothing. Otherwise a query answers the value of a register, of
`pc`, of a CSR by the public path, of memory by `MemRead`, of the run state or of a status output, and changes nothing; an edit of
`x`, `f`, `pc` sets that register, of a CSR goes through the public path, of memory through `MemWrite`. That a query or edit of a
RUNNING core, and a failing one of memory, is answered by a rejection, and the form of the queries, are the model's (log 16, 26, 32). -/
def Obligations.HostEdits : Prop :=
  ∀ (s : State) (op : PortOp) (rest : List PortOp), s.agenda = op :: rest →
    let s0 := { s with agenda := rest }
    let ok (t : State) : Prop := step s = .next { t with answer := .accepted }
    let reads (v : Answer) : Prop := step s = .next { s0 with answer := v }
    let no : Prop := step s = .next { s0 with answer := .rejected }
    let idle := s.run.runState ≠ .running
    (∀ q, op = .query q → ¬idle → no) ∧
    (∀ i, op = .query (.x i) → idle → reads (.word (s.getX i))) ∧
    (∀ i, op = .query (.f i) → idle → reads (.double (s.getF i))) ∧
    (op = .query .pc → idle → reads (.word s.pc)) ∧
    (∀ n, op = .query (.csr n) → idle → reads (.word (csrRead n s))) ∧
    (∀ a w, op = .query (.mem a w) → idle →
      (∀ v, memRead a w s = .ok v → reads (.double v)) ∧ (∀ e, memRead a w s = .error e → no)) ∧
    (op = .query .runState → idle → reads (.runState s.run.runState)) ∧
    (op = .query .haltReason → idle → reads (.haltReason s.run.haltReason)) ∧
    (op = .query .exitCode → idle → reads (.word s.run.exitCode)) ∧
    (op = .query .faultPc → idle → reads (.word s.run.faultPc)) ∧
    (op = .query .faultCause → idle → reads (.word s.run.faultCause)) ∧
    (op = .query .faultValue → idle → reads (.word s.run.faultValue)) ∧
    (∀ i v, op = .editX i v → (idle → ok (s0.setX i v)) ∧ (¬idle → no)) ∧
    (∀ i v, op = .editF i v → (idle → ok (s0.setF i v)) ∧ (¬idle → no)) ∧
    (∀ v, op = .editPc v → (idle → ok { s0 with pc := v }) ∧ (¬idle → no)) ∧
    (∀ n v, op = .editCsr n v → (idle → ok (csrWrite n v s0)) ∧ (¬idle → no)) ∧
    (∀ a w v, op = .editMem a w v →
      (idle → ∀ t, memWrite a w v s0 = .ok t → ok t) ∧
      (idle → ∀ e, memWrite a w v s0 = .error e → no) ∧ (¬idle → no))

/-! ## The whole machine -/

/-- Every instruction answers a next state at every state: no meaning stops. -/
def Obligations.EveryInstructionAnswersNext : Prop := ∀ (i : Instr) (s : State), ∃ t, exec i s = .next t

/-- From R11, R137, R303, R362, R404, R405: exactly where a step stops. A fault is the step of a core TERMINATED by EXCEPTION or
INVARIANT_VIOLATION that nobody acts on (log 10). A refusal is, on the core's turn, a refused word that no event comes before, or an
interrupt taken with a reserved vector mode; and, on a core that is not RUNNING, an ill-formed configuration, or an image with a byte
that lies in no segment (log 15). -/
def Obligations.StepStopsOnlyWhereReserved : Prop :=
  ∀ s : State,
    (∀ f, step s = .fault f ↔
      s.agenda = [] ∧ s.run.runState = .terminated ∧
        ((f = .unhandledException ∧ s.run.haltReason = .exception) ∨
          (f = .invariantViolation ∧ s.run.haltReason = .invariantViolation))) ∧
    (∀ r, step s = .refused r ↔
      (r = .refusedOpcode ∧ CoreTurn s ∧ (∃ w, fetch s.pc s = .ok w ∧ decode w = .refused) ∧ ∃ s', check s = .nothing s') ∨
      (r = .reservedVectorMode ∧ CoreTurn s ∧ (∃ w, fetch s.pc s = .ok w) ∧ s.csr.utvec &&& 0x3#32 ≠ 0#32 ∧
        ∃ e s', check s = .event e s' ∧ e.isInterrupt = true) ∨
      (r = .illFormedConfiguration ∧ s.run.runState ≠ .running ∧
        ∃ c rest, s.agenda = .setMemoryConfiguration c :: rest ∧ wfConfig c = false) ∨
      (r = .illFormedImage ∧ s.run.runState ≠ .running ∧ ∃ im en rest, s.agenda = .load im en :: rest ∧
        ∃ p ∈ im, segmentOf s.params.memcfg s.params.memcfg.heapBase p.1.toNat = none))

/-- The invariant: every step keeps it, whatever the step does, the ports' operations included. -/
def Obligations.StepKeepsInvariant : Prop := ∀ s t : State, Inv s → step s = .next t → Inv t

/-- The state after reset meets the invariant. -/
def Obligations.ResetMeetsInvariant : Prop := Inv State.reset ∧ TrapInv State.reset

/-- From R352, R412: a pending trap is the one of the instruction before `pc`, and the assertion of the claim never fails: every step
leaves it so, the ports' operations included, unless the host edits `pc` while a trap is pending. A step takes one operation from the
agenda, so a run the core makes by itself stays one (log 2). -/
def Obligations.TrapAssertionHoldsInEveryRun : Prop :=
  ∀ s t : State, (∀ v rest, s.agenda = .editPc v :: rest → s.ctl.trapPending = false) → TrapInv s → step s = .next t →
    TrapInv t ∧ t.agenda = s.agenda.tail ∧
    (t.run.runState = .terminated → t.run.haltReason = .invariantViolation →
      s.run.runState = .terminated ∧ s.run.haltReason = .invariantViolation)

/-- From R5, R95, R99, R300, R312, R52: what no step of the core itself changes, and the two ways the counters move. -/
def Obligations.CoreStepFrame : Prop :=
  ∀ s t : State, s.agenda = [] → Inv s → step s = .next t →
    t.params = s.params ∧ t.agenda = [] ∧ s.heapPtr.toNat ≤ t.heapPtr.toNat ∧
    (SameCounters s t ∨ (t.csr.cycle64 = s.csr.cycle64 + 1#64 ∧ t.csr.instret64 = s.csr.instret64 + 1#64)) ∧
    (s.run.runState ≠ .running → t = s) ∧
    (s.run.runState = .running → t.run.runState ≠ .running → t.run.runState = haltState t.run.haltReason)

/-- From R85, R92, R104: without the self-modifying-code permission no step of the core changes a byte
of the text segment, the environment included. -/
def Obligations.TextIsProtected : Prop :=
  ∀ (s t : State) (a : Nat), s.agenda = [] → Inv s → s.params.smcEnabled = false → step s = .next t →
    segmentOf s.params.memcfg s.heapPtr a = some .text → t.byteAt a = s.byteAt a
end

