-- ==== Sys2Proof/Laws/Encoding.lean ====
section
/-! SUPPORT. The fields of the six formats: each field of an assembled word is the one it was assembled from, and the fields of any
word assemble to it (30_encoding.md R131, R132). -/

namespace Sys2Proof

/-! ## Each bit of a composed value -/

theorem getLsbD_immSOf (w : Word) (i : Nat) :
    (immSOf w).getLsbD i =
      if i < 5 then (w.extractLsb' 7 5).getLsbD i
      else (w.extractLsb' 25 7).getLsbD (i - 5) := by
  show BitVec.getLsbD (w.extractLsb' 25 7 ++ w.extractLsb' 7 5) i = _
  simp only [BitVec.getLsbD_append]

theorem getLsbD_offBOf (w : Word) (i : Nat) :
    (offBOf w).getLsbD i =
      if i < 1 then (0#1).getLsbD i
      else if i - 1 < 4 then (w.extractLsb' 8 4).getLsbD (i - 1)
      else if i - 1 - 4 < 6 then (w.extractLsb' 25 6).getLsbD (i - 1 - 4)
      else if i - 1 - 4 - 6 < 1 then (w.extractLsb' 7 1).getLsbD (i - 1 - 4 - 6)
      else (w.extractLsb' 31 1).getLsbD (i - 1 - 4 - 6 - 1) := by
  show BitVec.getLsbD (w.extractLsb' 31 1 ++ w.extractLsb' 7 1 ++ w.extractLsb' 25 6 ++ w.extractLsb' 8 4 ++ 0#1) i = _
  simp only [BitVec.getLsbD_append]

theorem getLsbD_offJOf (w : Word) (i : Nat) :
    (offJOf w).getLsbD i =
      if i < 1 then (0#1).getLsbD i
      else if i - 1 < 10 then (w.extractLsb' 21 10).getLsbD (i - 1)
      else if i - 1 - 10 < 1 then (w.extractLsb' 20 1).getLsbD (i - 1 - 10)
      else if i - 1 - 10 - 1 < 8 then (w.extractLsb' 12 8).getLsbD (i - 1 - 10 - 1)
      else (w.extractLsb' 31 1).getLsbD (i - 1 - 10 - 1 - 8) := by
  show BitVec.getLsbD (w.extractLsb' 31 1 ++ w.extractLsb' 12 8 ++ w.extractLsb' 20 1 ++ w.extractLsb' 21 10 ++ 0#1) i = _
  simp only [BitVec.getLsbD_append]

theorem getLsbD_encR (f7 : BitVec 7) (rs2 rs1 : RegIdx) (f3 : BitVec 3) (rd : RegIdx) (op : BitVec 7) (i : Nat) :
    (encR f7 rs2 rs1 f3 rd op).getLsbD i =
      if i < 7 then op.getLsbD i
      else if i - 7 < 5 then rd.getLsbD (i - 7)
      else if i - 7 - 5 < 3 then f3.getLsbD (i - 7 - 5)
      else if i - 7 - 5 - 3 < 5 then rs1.getLsbD (i - 7 - 5 - 3)
      else if i - 7 - 5 - 3 - 5 < 5 then rs2.getLsbD (i - 7 - 5 - 3 - 5)
      else f7.getLsbD (i - 7 - 5 - 3 - 5 - 5) := by
  show BitVec.getLsbD (f7 ++ rs2 ++ rs1 ++ f3 ++ rd ++ op) i = _
  simp only [BitVec.getLsbD_append]

theorem getLsbD_encI (imm : BitVec 12) (rs1 : RegIdx) (f3 : BitVec 3) (rd : RegIdx) (op : BitVec 7) (i : Nat) :
    (encI imm rs1 f3 rd op).getLsbD i =
      if i < 7 then op.getLsbD i
      else if i - 7 < 5 then rd.getLsbD (i - 7)
      else if i - 7 - 5 < 3 then f3.getLsbD (i - 7 - 5)
      else if i - 7 - 5 - 3 < 5 then rs1.getLsbD (i - 7 - 5 - 3)
      else imm.getLsbD (i - 7 - 5 - 3 - 5) := by
  show BitVec.getLsbD (imm ++ rs1 ++ f3 ++ rd ++ op) i = _
  simp only [BitVec.getLsbD_append]

theorem getLsbD_encS (imm : BitVec 12) (rs2 rs1 : RegIdx) (f3 : BitVec 3) (op : BitVec 7) (i : Nat) :
    (encS imm rs2 rs1 f3 op).getLsbD i =
      if i < 7 then op.getLsbD i
      else if i - 7 < 5 then (imm.extractLsb' 0 5).getLsbD (i - 7)
      else if i - 7 - 5 < 3 then f3.getLsbD (i - 7 - 5)
      else if i - 7 - 5 - 3 < 5 then rs1.getLsbD (i - 7 - 5 - 3)
      else if i - 7 - 5 - 3 - 5 < 5 then rs2.getLsbD (i - 7 - 5 - 3 - 5)
      else (imm.extractLsb' 5 7).getLsbD (i - 7 - 5 - 3 - 5 - 5) := by
  show BitVec.getLsbD (imm.extractLsb' 5 7 ++ rs2 ++ rs1 ++ f3 ++ imm.extractLsb' 0 5 ++ op) i = _
  simp only [BitVec.getLsbD_append]

theorem getLsbD_encB (off : BitVec 13) (rs2 rs1 : RegIdx) (f3 : BitVec 3) (op : BitVec 7) (i : Nat) :
    (encB off rs2 rs1 f3 op).getLsbD i =
      if i < 7 then op.getLsbD i
      else if i - 7 < 1 then (off.extractLsb' 11 1).getLsbD (i - 7)
      else if i - 7 - 1 < 4 then (off.extractLsb' 1 4).getLsbD (i - 7 - 1)
      else if i - 7 - 1 - 4 < 3 then f3.getLsbD (i - 7 - 1 - 4)
      else if i - 7 - 1 - 4 - 3 < 5 then rs1.getLsbD (i - 7 - 1 - 4 - 3)
      else if i - 7 - 1 - 4 - 3 - 5 < 5 then rs2.getLsbD (i - 7 - 1 - 4 - 3 - 5)
      else if i - 7 - 1 - 4 - 3 - 5 - 5 < 6 then (off.extractLsb' 5 6).getLsbD (i - 7 - 1 - 4 - 3 - 5 - 5)
      else (off.extractLsb' 12 1).getLsbD (i - 7 - 1 - 4 - 3 - 5 - 5 - 6) := by
  show BitVec.getLsbD (off.extractLsb' 12 1 ++ off.extractLsb' 5 6 ++ rs2 ++ rs1 ++ f3 ++ off.extractLsb' 1 4 ++ off.extractLsb' 11 1 ++ op) i = _
  simp only [BitVec.getLsbD_append]

theorem getLsbD_encU (imm : BitVec 20) (rd : RegIdx) (op : BitVec 7) (i : Nat) :
    (encU imm rd op).getLsbD i =
      if i < 7 then op.getLsbD i
      else if i - 7 < 5 then rd.getLsbD (i - 7)
      else imm.getLsbD (i - 7 - 5) := by
  show BitVec.getLsbD (imm ++ rd ++ op) i = _
  simp only [BitVec.getLsbD_append]

theorem getLsbD_encJ (off : BitVec 21) (rd : RegIdx) (op : BitVec 7) (i : Nat) :
    (encJ off rd op).getLsbD i =
      if i < 7 then op.getLsbD i
      else if i - 7 < 5 then rd.getLsbD (i - 7)
      else if i - 7 - 5 < 8 then (off.extractLsb' 12 8).getLsbD (i - 7 - 5)
      else if i - 7 - 5 - 8 < 1 then (off.extractLsb' 11 1).getLsbD (i - 7 - 5 - 8)
      else if i - 7 - 5 - 8 - 1 < 10 then (off.extractLsb' 1 10).getLsbD (i - 7 - 5 - 8 - 1)
      else (off.extractLsb' 20 1).getLsbD (i - 7 - 5 - 8 - 1 - 10) := by
  show BitVec.getLsbD (off.extractLsb' 20 1 ++ off.extractLsb' 1 10 ++ off.extractLsb' 11 1 ++ off.extractLsb' 12 8 ++ rd ++ op) i = _
  simp only [BitVec.getLsbD_append]

/-! ## Format R -/

@[simp] theorem opcodeOf_encR (f7 : BitVec 7) (rs2 rs1 : RegIdx) (f3 : BitVec 3) (rd : RegIdx) (op : BitVec 7) :
    opcodeOf (encR f7 rs2 rs1 f3 rd op) = op := by
  apply BitVec.eq_of_getLsbD_eq
  intro i hi
  simp only [opcodeOf, BitVec.getLsbD_extractLsb', getLsbD_encR]
  interval_cases i <;> simp

@[simp] theorem rdOf_encR (f7 : BitVec 7) (rs2 rs1 : RegIdx) (f3 : BitVec 3) (rd : RegIdx) (op : BitVec 7) :
    rdOf (encR f7 rs2 rs1 f3 rd op) = rd := by
  apply BitVec.eq_of_getLsbD_eq
  intro i hi
  simp only [rdOf, BitVec.getLsbD_extractLsb', getLsbD_encR]
  interval_cases i <;> simp

@[simp] theorem funct3Of_encR (f7 : BitVec 7) (rs2 rs1 : RegIdx) (f3 : BitVec 3) (rd : RegIdx) (op : BitVec 7) :
    funct3Of (encR f7 rs2 rs1 f3 rd op) = f3 := by
  apply BitVec.eq_of_getLsbD_eq
  intro i hi
  simp only [funct3Of, BitVec.getLsbD_extractLsb', getLsbD_encR]
  interval_cases i <;> simp

@[simp] theorem rs1Of_encR (f7 : BitVec 7) (rs2 rs1 : RegIdx) (f3 : BitVec 3) (rd : RegIdx) (op : BitVec 7) :
    rs1Of (encR f7 rs2 rs1 f3 rd op) = rs1 := by
  apply BitVec.eq_of_getLsbD_eq
  intro i hi
  simp only [rs1Of, BitVec.getLsbD_extractLsb', getLsbD_encR]
  interval_cases i <;> simp

@[simp] theorem rs2Of_encR (f7 : BitVec 7) (rs2 rs1 : RegIdx) (f3 : BitVec 3) (rd : RegIdx) (op : BitVec 7) :
    rs2Of (encR f7 rs2 rs1 f3 rd op) = rs2 := by
  apply BitVec.eq_of_getLsbD_eq
  intro i hi
  simp only [rs2Of, BitVec.getLsbD_extractLsb', getLsbD_encR]
  interval_cases i <;> simp

@[simp] theorem funct7Of_encR (f7 : BitVec 7) (rs2 rs1 : RegIdx) (f3 : BitVec 3) (rd : RegIdx) (op : BitVec 7) :
    funct7Of (encR f7 rs2 rs1 f3 rd op) = f7 := by
  apply BitVec.eq_of_getLsbD_eq
  intro i hi
  simp only [funct7Of, BitVec.getLsbD_extractLsb', getLsbD_encR]
  interval_cases i <;> simp

theorem encR_fields (w : Word) : encR (funct7Of w) (rs2Of w) (rs1Of w) (funct3Of w) (rdOf w) (opcodeOf w) = w := by
  apply BitVec.eq_of_getLsbD_eq
  intro i hi
  rw [getLsbD_encR]
  interval_cases i <;>
    simp [opcodeOf, rdOf, funct3Of, rs1Of, rs2Of, funct7Of]

/-! ## Format I -/

@[simp] theorem opcodeOf_encI (imm : BitVec 12) (rs1 : RegIdx) (f3 : BitVec 3) (rd : RegIdx) (op : BitVec 7) :
    opcodeOf (encI imm rs1 f3 rd op) = op := by
  apply BitVec.eq_of_getLsbD_eq
  intro i hi
  simp only [opcodeOf, BitVec.getLsbD_extractLsb', getLsbD_encI]
  interval_cases i <;> simp

@[simp] theorem rdOf_encI (imm : BitVec 12) (rs1 : RegIdx) (f3 : BitVec 3) (rd : RegIdx) (op : BitVec 7) :
    rdOf (encI imm rs1 f3 rd op) = rd := by
  apply BitVec.eq_of_getLsbD_eq
  intro i hi
  simp only [rdOf, BitVec.getLsbD_extractLsb', getLsbD_encI]
  interval_cases i <;> simp

@[simp] theorem funct3Of_encI (imm : BitVec 12) (rs1 : RegIdx) (f3 : BitVec 3) (rd : RegIdx) (op : BitVec 7) :
    funct3Of (encI imm rs1 f3 rd op) = f3 := by
  apply BitVec.eq_of_getLsbD_eq
  intro i hi
  simp only [funct3Of, BitVec.getLsbD_extractLsb', getLsbD_encI]
  interval_cases i <;> simp

@[simp] theorem rs1Of_encI (imm : BitVec 12) (rs1 : RegIdx) (f3 : BitVec 3) (rd : RegIdx) (op : BitVec 7) :
    rs1Of (encI imm rs1 f3 rd op) = rs1 := by
  apply BitVec.eq_of_getLsbD_eq
  intro i hi
  simp only [rs1Of, BitVec.getLsbD_extractLsb', getLsbD_encI]
  interval_cases i <;> simp

@[simp] theorem immIOf_encI (imm : BitVec 12) (rs1 : RegIdx) (f3 : BitVec 3) (rd : RegIdx) (op : BitVec 7) :
    immIOf (encI imm rs1 f3 rd op) = imm := by
  apply BitVec.eq_of_getLsbD_eq
  intro i hi
  simp only [immIOf, BitVec.getLsbD_extractLsb', getLsbD_encI]
  interval_cases i <;> simp

theorem encI_fields (w : Word) : encI (immIOf w) (rs1Of w) (funct3Of w) (rdOf w) (opcodeOf w) = w := by
  apply BitVec.eq_of_getLsbD_eq
  intro i hi
  rw [getLsbD_encI]
  interval_cases i <;>
    simp [opcodeOf, rdOf, funct3Of, rs1Of, immIOf]

/-! ## Format S -/

@[simp] theorem opcodeOf_encS (imm : BitVec 12) (rs2 rs1 : RegIdx) (f3 : BitVec 3) (op : BitVec 7) :
    opcodeOf (encS imm rs2 rs1 f3 op) = op := by
  apply BitVec.eq_of_getLsbD_eq
  intro i hi
  simp only [opcodeOf, BitVec.getLsbD_extractLsb', getLsbD_encS]
  interval_cases i <;> simp

@[simp] theorem funct3Of_encS (imm : BitVec 12) (rs2 rs1 : RegIdx) (f3 : BitVec 3) (op : BitVec 7) :
    funct3Of (encS imm rs2 rs1 f3 op) = f3 := by
  apply BitVec.eq_of_getLsbD_eq
  intro i hi
  simp only [funct3Of, BitVec.getLsbD_extractLsb', getLsbD_encS]
  interval_cases i <;> simp

@[simp] theorem rs1Of_encS (imm : BitVec 12) (rs2 rs1 : RegIdx) (f3 : BitVec 3) (op : BitVec 7) :
    rs1Of (encS imm rs2 rs1 f3 op) = rs1 := by
  apply BitVec.eq_of_getLsbD_eq
  intro i hi
  simp only [rs1Of, BitVec.getLsbD_extractLsb', getLsbD_encS]
  interval_cases i <;> simp

@[simp] theorem rs2Of_encS (imm : BitVec 12) (rs2 rs1 : RegIdx) (f3 : BitVec 3) (op : BitVec 7) :
    rs2Of (encS imm rs2 rs1 f3 op) = rs2 := by
  apply BitVec.eq_of_getLsbD_eq
  intro i hi
  simp only [rs2Of, BitVec.getLsbD_extractLsb', getLsbD_encS]
  interval_cases i <;> simp

@[simp] theorem immSOf_encS (imm : BitVec 12) (rs2 rs1 : RegIdx) (f3 : BitVec 3) (op : BitVec 7) :
    immSOf (encS imm rs2 rs1 f3 op) = imm := by
  apply BitVec.eq_of_getLsbD_eq
  intro i hi
  simp only [getLsbD_immSOf, BitVec.getLsbD_extractLsb', getLsbD_encS]
  interval_cases i <;> simp

theorem encS_fields (w : Word) : encS (immSOf w) (rs2Of w) (rs1Of w) (funct3Of w) (opcodeOf w) = w := by
  apply BitVec.eq_of_getLsbD_eq
  intro i hi
  rw [getLsbD_encS]
  interval_cases i <;>
    simp [opcodeOf, funct3Of, rs1Of, rs2Of, getLsbD_immSOf, ← BitVec.getLsbD_eq_getElem]

/-! ## Format B -/

@[simp] theorem opcodeOf_encB (off : BitVec 13) (rs2 rs1 : RegIdx) (f3 : BitVec 3) (op : BitVec 7) :
    opcodeOf (encB off rs2 rs1 f3 op) = op := by
  apply BitVec.eq_of_getLsbD_eq
  intro i hi
  simp only [opcodeOf, BitVec.getLsbD_extractLsb', getLsbD_encB]
  interval_cases i <;> simp

@[simp] theorem funct3Of_encB (off : BitVec 13) (rs2 rs1 : RegIdx) (f3 : BitVec 3) (op : BitVec 7) :
    funct3Of (encB off rs2 rs1 f3 op) = f3 := by
  apply BitVec.eq_of_getLsbD_eq
  intro i hi
  simp only [funct3Of, BitVec.getLsbD_extractLsb', getLsbD_encB]
  interval_cases i <;> simp

@[simp] theorem rs1Of_encB (off : BitVec 13) (rs2 rs1 : RegIdx) (f3 : BitVec 3) (op : BitVec 7) :
    rs1Of (encB off rs2 rs1 f3 op) = rs1 := by
  apply BitVec.eq_of_getLsbD_eq
  intro i hi
  simp only [rs1Of, BitVec.getLsbD_extractLsb', getLsbD_encB]
  interval_cases i <;> simp

@[simp] theorem rs2Of_encB (off : BitVec 13) (rs2 rs1 : RegIdx) (f3 : BitVec 3) (op : BitVec 7) :
    rs2Of (encB off rs2 rs1 f3 op) = rs2 := by
  apply BitVec.eq_of_getLsbD_eq
  intro i hi
  simp only [rs2Of, BitVec.getLsbD_extractLsb', getLsbD_encB]
  interval_cases i <;> simp

theorem offBOf_encB (off : BitVec 13) (rs2 rs1 : RegIdx) (f3 : BitVec 3) (op : BitVec 7) (h : off.getLsbD 0 = false) :
    offBOf (encB off rs2 rs1 f3 op) = off := by
  apply BitVec.eq_of_getLsbD_eq
  intro i hi
  simp only [getLsbD_offBOf, BitVec.getLsbD_extractLsb', getLsbD_encB]
  interval_cases i <;> simp_all

theorem encB_fields (w : Word) : encB (offBOf w) (rs2Of w) (rs1Of w) (funct3Of w) (opcodeOf w) = w := by
  apply BitVec.eq_of_getLsbD_eq
  intro i hi
  rw [getLsbD_encB]
  interval_cases i <;>
    simp [opcodeOf, funct3Of, rs1Of, rs2Of, getLsbD_offBOf, ← BitVec.getLsbD_eq_getElem]

/-! ## Format U -/

@[simp] theorem opcodeOf_encU (imm : BitVec 20) (rd : RegIdx) (op : BitVec 7) :
    opcodeOf (encU imm rd op) = op := by
  apply BitVec.eq_of_getLsbD_eq
  intro i hi
  simp only [opcodeOf, BitVec.getLsbD_extractLsb', getLsbD_encU]
  interval_cases i <;> simp

@[simp] theorem rdOf_encU (imm : BitVec 20) (rd : RegIdx) (op : BitVec 7) :
    rdOf (encU imm rd op) = rd := by
  apply BitVec.eq_of_getLsbD_eq
  intro i hi
  simp only [rdOf, BitVec.getLsbD_extractLsb', getLsbD_encU]
  interval_cases i <;> simp

@[simp] theorem immUOf_encU (imm : BitVec 20) (rd : RegIdx) (op : BitVec 7) :
    immUOf (encU imm rd op) = imm := by
  apply BitVec.eq_of_getLsbD_eq
  intro i hi
  simp only [immUOf, BitVec.getLsbD_extractLsb', getLsbD_encU]
  interval_cases i <;> simp

theorem encU_fields (w : Word) : encU (immUOf w) (rdOf w) (opcodeOf w) = w := by
  apply BitVec.eq_of_getLsbD_eq
  intro i hi
  rw [getLsbD_encU]
  interval_cases i <;>
    simp [opcodeOf, rdOf, immUOf]

/-! ## Format J -/

@[simp] theorem opcodeOf_encJ (off : BitVec 21) (rd : RegIdx) (op : BitVec 7) :
    opcodeOf (encJ off rd op) = op := by
  apply BitVec.eq_of_getLsbD_eq
  intro i hi
  simp only [opcodeOf, BitVec.getLsbD_extractLsb', getLsbD_encJ]
  interval_cases i <;> simp

@[simp] theorem rdOf_encJ (off : BitVec 21) (rd : RegIdx) (op : BitVec 7) :
    rdOf (encJ off rd op) = rd := by
  apply BitVec.eq_of_getLsbD_eq
  intro i hi
  simp only [rdOf, BitVec.getLsbD_extractLsb', getLsbD_encJ]
  interval_cases i <;> simp

theorem offJOf_encJ (off : BitVec 21) (rd : RegIdx) (op : BitVec 7) (h : off.getLsbD 0 = false) :
    offJOf (encJ off rd op) = off := by
  apply BitVec.eq_of_getLsbD_eq
  intro i hi
  simp only [getLsbD_offJOf, BitVec.getLsbD_extractLsb', getLsbD_encJ]
  interval_cases i <;> simp_all

theorem encJ_fields (w : Word) : encJ (offJOf w) (rdOf w) (opcodeOf w) = w := by
  apply BitVec.eq_of_getLsbD_eq
  intro i hi
  rw [getLsbD_encJ]
  interval_cases i <;>
    simp [opcodeOf, rdOf, getLsbD_offJOf, ← BitVec.getLsbD_eq_getElem]

/-! ## The fields of FENCE (R138) -/

theorem getLsbD_fenceBits (fm pred succ : BitVec 4) (i : Nat) :
    (fm ++ pred ++ succ : BitVec 12).getLsbD i =
      if i < 4 then succ.getLsbD i else if i - 4 < 4 then pred.getLsbD (i - 4) else fm.getLsbD (i - 4 - 4) := by
  show BitVec.getLsbD (fm ++ pred ++ succ) i = _
  simp only [BitVec.getLsbD_append]

theorem fence_fields (fm pred succ : BitVec 4) (rs1 rd : RegIdx) (f3 : BitVec 3) (op : BitVec 7) :
    (encI (fm ++ pred ++ succ) rs1 f3 rd op).extractLsb' 28 4 = fm ∧
      (encI (fm ++ pred ++ succ) rs1 f3 rd op).extractLsb' 24 4 = pred ∧
        (encI (fm ++ pred ++ succ) rs1 f3 rd op).extractLsb' 20 4 = succ := by
  refine ⟨?_, ?_, ?_⟩ <;>
    (apply BitVec.eq_of_getLsbD_eq
     intro i hi
     rw [BitVec.getLsbD_extractLsb', getLsbD_encI]
     simp only [getLsbD_fenceBits]
     interval_cases i <;> simp)

/-- The twelve bits above `rs1` are the three fields of FENCE. -/
theorem fence_fields_append (w : Word) :
    (w.extractLsb' 28 4 ++ w.extractLsb' 24 4 ++ w.extractLsb' 20 4 : BitVec 12) = immIOf w := by
  apply BitVec.eq_of_getLsbD_eq
  intro i hi
  rw [getLsbD_fenceBits]
  interval_cases i <;> simp [immIOf]

/-! ## The masks of the opcode map select whole fields (R133) -/

/-- The mask of formats U and J is the opcode. -/
theorem and_opcodeMask (w : Word) : w &&& 0x0000007F#32 = (opcodeOf w).setWidth 32 := by
  apply BitVec.eq_of_getLsbD_eq
  intro i hi
  interval_cases i <;> simp [opcodeOf]

/-- The mask of formats I, S and B is the opcode and funct3. -/
theorem and_funct3Mask (w : Word) :
    w &&& 0x0000707F#32 = ((funct3Of w).setWidth 32 <<< 12) ||| (opcodeOf w).setWidth 32 := by
  apply BitVec.eq_of_getLsbD_eq
  intro i hi
  interval_cases i <;> simp [opcodeOf, funct3Of]

/-- The mask of format R and of the shift immediates is the opcode, funct3 and funct7. -/
theorem and_funct7Mask (w : Word) :
    w &&& 0xFE00707F#32 =
      ((funct7Of w).setWidth 32 <<< 25) ||| ((funct3Of w).setWidth 32 <<< 12) ||| (opcodeOf w).setWidth 32 := by
  apply BitVec.eq_of_getLsbD_eq
  intro i hi
  interval_cases i <;> simp [opcodeOf, funct3Of, funct7Of]

/-- The mask of the four exact words is every bit. -/
theorem and_allOnes (w : Word) : w &&& 0xFFFFFFFF#32 = w := BitVec.and_allOnes

end Sys2Proof
end

