-- ==== Sys2Proof/Laws/Memory.lean ====
section
/-! SUPPORT. Laws of the byte memory: read after write, the canonical form, and the byte order of multi-byte values. -/

namespace Sys2Proof.Machine

@[simp] theorem Memory.read_nil (a : Nat) : Memory.read [] a = Memory.unlisted := rfl

theorem Memory.read_cons (k : Nat) (b : Byte) (m : Memory) (a : Nat) :
    Memory.read ((k, b) :: m) a = if k = a then b else Memory.read m a := rfl

/-- An address below every listed one is unlisted. -/
theorem Memory.read_of_lt {m : Memory} {a : Nat} (h : ∀ p ∈ m, a < p.1) : Memory.read m a = Memory.unlisted := by
  induction m with
  | nil => rfl
  | cons p m ih =>
    obtain ⟨k, b⟩ := p
    have hk : a < k := h (k, b) (by simp)
    rw [Memory.read_cons, if_neg (by omega)]
    exact ih fun q hq => h q (by simp [hq])

/-- Reading after a write, on a memory in canonical form. -/
theorem Memory.read_write {m : Memory} (hm : m.wf) (a : Nat) (b : Byte) (a' : Nat) :
    (m.write a b).read a' = if a' = a then b else m.read a' := by
  induction m with
  | nil =>
    unfold Memory.write
    by_cases hb : b = Memory.unlisted <;> by_cases ha : a' = a <;> simp_all [Memory.read_cons, eq_comm]
  | cons p m ih =>
    obtain ⟨k, c⟩ := p
    obtain ⟨hp, hne⟩ := hm
    rw [List.pairwise_cons] at hp
    have ih := ih ⟨hp.2, fun q hq => hne q (by simp [hq])⟩
    unfold Memory.write
    rcases lt_trichotomy a k with h | h | h
    · have hread : Memory.read ((k, c) :: m) a = Memory.unlisted :=
        Memory.read_of_lt fun q hq => by
          rcases List.mem_cons.mp hq with rfl | hq
          · exact h
          · exact lt_trans h (hp.1 q hq)
      rw [if_pos h]
      by_cases hb : b = Memory.unlisted
      · rw [if_pos hb]
        by_cases ha : a' = a
        · rw [if_pos ha, ha, hread, hb]
        · rw [if_neg ha]
      · rw [if_neg hb, Memory.read_cons]
        by_cases ha : a' = a
        · rw [if_pos ha.symm, if_pos ha]
        · rw [if_neg (fun e => ha e.symm), if_neg ha]
    · subst h
      rw [if_neg (lt_irrefl a), if_pos rfl]
      by_cases hb : b = Memory.unlisted
      · rw [if_pos hb, Memory.read_cons]
        by_cases ha : a' = a
        · rw [if_pos ha, ha, hb]
          exact Memory.read_of_lt hp.1
        · rw [if_neg ha, if_neg fun e => ha e.symm]
      · rw [if_neg hb, Memory.read_cons, Memory.read_cons]
        by_cases ha : a' = a
        · rw [if_pos ha.symm, if_pos ha]
        · rw [if_neg fun e => ha e.symm, if_neg ha, if_neg fun e => ha e.symm]
    · rw [if_neg (by omega), if_neg (by omega), Memory.read_cons, Memory.read_cons, ih]
      by_cases hk : k = a'
      · rw [if_pos hk, if_pos hk, if_neg (by omega)]
      · rw [if_neg hk, if_neg hk]

/-- The addresses a write can list. -/
theorem Memory.mem_write {m : Memory} {a : Nat} {b : Byte} {p : Host.Cell} (h : p ∈ m.write a b) :
    p ∈ m ∨ (p = (a, b) ∧ b ≠ Memory.unlisted) := by
  induction m with
  | nil =>
    unfold Memory.write at h
    split at h <;> simp_all
  | cons q m ih =>
    obtain ⟨k, c⟩ := q
    unfold Memory.write at h
    split at h
    · split at h
      · exact .inl h
      · rcases List.mem_cons.mp h with rfl | h
        · exact .inr ⟨rfl, ‹_›⟩
        · exact .inl h
    · split at h
      · split at h
        · exact .inl (by simp [h])
        · rcases List.mem_cons.mp h with rfl | h
          · exact .inr ⟨by simp_all, ‹_›⟩
          · exact .inl (by simp [h])
      · rcases List.mem_cons.mp h with rfl | h
        · exact .inl (by simp)
        · exact (ih h).imp_left (by simp_all)

/-- A write keeps the canonical form. -/
theorem Memory.wf_write {m : Memory} (hm : m.wf) (a : Nat) (b : Byte) : (m.write a b).wf := by
  refine ⟨?_, fun p hp => ?_⟩
  · induction m with
    | nil =>
      unfold Memory.write
      split <;> simp
    | cons q m ih =>
      obtain ⟨k, c⟩ := q
      obtain ⟨hp, hne⟩ := hm
      have hp' := List.pairwise_cons.mp hp
      have ih := ih ⟨hp'.2, fun r hr => hne r (by simp [hr])⟩
      unfold Memory.write
      split
      · rename_i hlt
        split
        · exact hp
        · refine List.pairwise_cons.mpr ⟨fun r hr => ?_, hp⟩
          rcases List.mem_cons.mp hr with rfl | hr
          · exact hlt
          · exact lt_trans hlt (hp'.1 r hr)
      · split
        · split
          · exact hp'.2
          · exact List.pairwise_cons.mpr ⟨fun r hr => hp'.1 r hr, hp'.2⟩
        · refine List.pairwise_cons.mpr ⟨fun r hr => ?_, ih⟩
          rcases Memory.mem_write hr with h | ⟨rfl, -⟩
          · exact hp'.1 r h
          · show k < a
            omega
  · rcases Memory.mem_write hp with h | ⟨rfl, hb⟩
    · exact hm.2 p h
    · exact hb

theorem Memory.wf_writeBytes {m : Memory} (hm : m.wf) (a : Nat) (bs : List Byte) : (m.writeBytes a bs).wf := by
  induction bs generalizing m a with
  | nil => exact hm
  | cons b bs ih => exact ih (Memory.wf_write hm a b) (a + 1)

theorem Memory.wf_writeImage {m : Memory} (hm : m.wf) (image : List (Word × Byte)) : (m.writeImage image).wf := by
  induction image generalizing m with
  | nil => exact hm
  | cons p rest ih => exact ih (Memory.wf_write hm _ _)

/-- Every listed address lies below a bound. -/
def Memory.below (n : Nat) (m : Memory) : Prop := ∀ p ∈ m, p.1 < n

theorem Memory.below_write {n : Nat} {m : Memory} (hm : m.below n) {a : Nat} (ha : a < n) (b : Byte) :
    Memory.below n (m.write a b) := by
  intro p hp
  rcases Memory.mem_write hp with h | ⟨rfl, -⟩
  · exact hm p h
  · exact ha

theorem Memory.below_writeBytes {n : Nat} {m : Memory} (hm : m.below n) (a : Nat) (bs : List Byte)
    (ha : a + bs.length ≤ n) : Memory.below n (m.writeBytes a bs) := by
  induction bs generalizing m a with
  | nil => exact hm
  | cons b bs ih =>
    simp only [List.length_cons] at ha
    exact ih (Memory.below_write hm (by omega) b) (a + 1) (by omega)

theorem Memory.below_writeImage {m : Memory} (hm : m.below (2 ^ 32)) (image : List (Word × Byte)) :
    Memory.below (2 ^ 32) (m.writeImage image) := by
  induction image generalizing m with
  | nil => exact hm
  | cons p rest ih => exact ih (Memory.below_write hm p.1.isLt p.2)

/-- A byte after a run of bytes was written. -/
theorem Memory.read_writeBytes {m : Memory} (hm : m.wf) (a : Nat) (bs : List Byte) (a' : Nat) :
    (m.writeBytes a bs).read a' = if h : a ≤ a' ∧ a' < a + bs.length then bs[a' - a]'(by omega) else m.read a' := by
  induction bs generalizing m a with
  | nil =>
    rw [dif_neg (by simp)]
    rfl
  | cons b bs ih =>
    show ((m.write a b).writeBytes (a + 1) bs).read a' = _
    rw [ih (Memory.wf_write hm a b), Memory.read_write hm]
    simp only [List.length_cons]
    by_cases h1 : a' = a
    · subst h1
      rw [dif_neg (by omega), if_pos rfl, dif_pos (by omega)]
      simp
    · by_cases h2 : a + 1 ≤ a' ∧ a' < a + 1 + bs.length
      · rw [dif_pos h2, dif_pos (by omega)]
        have : a' - a = (a' - (a + 1)) + 1 := by omega
        simp [this]
      · rw [dif_neg h2, if_neg h1, dif_neg (by omega)]

/-- Bytes outside the written run are unchanged. -/
theorem Memory.read_writeBytes_of_not_mem {m : Memory} (hm : m.wf) {a : Nat} {bs : List Byte} {a' : Nat}
    (h : ¬ (a ≤ a' ∧ a' < a + bs.length)) : (m.writeBytes a bs).read a' = m.read a' := by
  rw [Memory.read_writeBytes hm, dif_neg h]

@[simp] theorem leBytes_length (n v : Nat) : (leBytes n v).length = n := by
  induction n generalizing v with
  | zero => rfl
  | succ n ih => simp [leBytes, ih]

theorem leBytes_getElem (n v i : Nat) (h : i < (leBytes n v).length) :
    (leBytes n v)[i] = BitVec.ofNat 8 (v / 256 ^ i) := by
  induction n generalizing v i with
  | zero => simp [leBytes] at h
  | succ n ih =>
    cases i with
    | zero => simp [leBytes]
    | succ i =>
      simp only [leBytes, List.getElem_cons_succ]
      rw [ih, Nat.div_div_eq_div_mul, pow_succ']

/-- Writing a number's bytes and reading them back gives the number, cut to the bytes. -/
theorem leNat_leBytes (n v : Nat) : leNat (leBytes n v) = v % 256 ^ n := by
  induction n generalizing v with
  | zero => simp [leBytes, leNat, Nat.mod_one]
  | succ n ih =>
    show (BitVec.ofNat 8 v).toNat + 256 * leNat (leBytes n (v / 256)) = _
    rw [ih, BitVec.toNat_ofNat, show (2 : Nat) ^ 8 = 256 from rfl, pow_succ', Nat.mod_mul]

theorem Memory.readBytes_eq (m : Memory) (a n : Nat) (bs : List Byte) (hl : bs.length = n)
    (h : ∀ i (hi : i < bs.length), m.read (a + i) = bs[i]) : m.readBytes a n = bs := by
  induction bs generalizing a n with
  | nil => subst hl; rfl
  | cons b bs ih =>
    subst hl
    simp only [List.length_cons, Memory.readBytes]
    rw [ih (a + 1) bs.length rfl fun i hi => by
      have := h (i + 1) (by simp; omega)
      simpa [Nat.add_assoc, Nat.add_comm 1] using this]
    have := h 0 (by simp)
    simp at this
    rw [this]

/-- Reading a run of bytes right after it was written. -/
theorem Memory.readBytes_writeBytes {m : Memory} (hm : m.wf) (a : Nat) (bs : List Byte) :
    (m.writeBytes a bs).readBytes a bs.length = bs := by
  refine Memory.readBytes_eq _ _ _ _ rfl fun i hi => ?_
  rw [Memory.read_writeBytes hm, dif_pos (by omega)]
  simp

end Sys2Proof.Machine
end

