-- ==== Sys2Proof/Laws/State.lean ====
section
/-! SUPPORT. One lemma per field per update of the state, so that no proof unfolds a record update. -/

namespace Sys2Proof.Machine


/-! ## The register files -/

@[simp] theorem setX_params (s : State) (i : RegIdx) (v : Word) : (s.setX i v).params = s.params :=
  by unfold State.setX; split <;> rfl
@[simp] theorem setX_pc (s : State) (i : RegIdx) (v : Word) : (s.setX i v).pc = s.pc := by unfold State.setX; split <;> rfl
@[simp] theorem setX_f (s : State) (i : RegIdx) (v : Word) : (s.setX i v).f = s.f := by unfold State.setX; split <;> rfl
@[simp] theorem setX_csr (s : State) (i : RegIdx) (v : Word) : (s.setX i v).csr = s.csr := by unfold State.setX; split <;> rfl
@[simp] theorem setX_mem (s : State) (i : RegIdx) (v : Word) : (s.setX i v).mem = s.mem := by unfold State.setX; split <;> rfl
@[simp] theorem setX_heapPtr (s : State) (i : RegIdx) (v : Word) : (s.setX i v).heapPtr = s.heapPtr :=
  by unfold State.setX; split <;> rfl
@[simp] theorem setX_ctl (s : State) (i : RegIdx) (v : Word) : (s.setX i v).ctl = s.ctl := by unfold State.setX; split <;> rfl
@[simp] theorem setX_run (s : State) (i : RegIdx) (v : Word) : (s.setX i v).run = s.run := by unfold State.setX; split <;> rfl
@[simp] theorem setX_draws (s : State) (i : RegIdx) (v : Word) : (s.setX i v).draws = s.draws :=
  by unfold State.setX; split <;> rfl
@[simp] theorem setX_answer (s : State) (i : RegIdx) (v : Word) : (s.setX i v).answer = s.answer :=
  by unfold State.setX; split <;> rfl
@[simp] theorem setX_agenda (s : State) (i : RegIdx) (v : Word) : (s.setX i v).agenda = s.agenda :=
  by unfold State.setX; split <;> rfl
@[simp] theorem setF_params (s : State) (i : RegIdx) (v : Dword) : (s.setF i v).params = s.params := rfl
@[simp] theorem setF_x (s : State) (i : RegIdx) (v : Dword) : (s.setF i v).x = s.x := rfl
@[simp] theorem setF_pc (s : State) (i : RegIdx) (v : Dword) : (s.setF i v).pc = s.pc := rfl
@[simp] theorem setF_csr (s : State) (i : RegIdx) (v : Dword) : (s.setF i v).csr = s.csr := rfl
@[simp] theorem setF_mem (s : State) (i : RegIdx) (v : Dword) : (s.setF i v).mem = s.mem := rfl
@[simp] theorem setF_heapPtr (s : State) (i : RegIdx) (v : Dword) : (s.setF i v).heapPtr = s.heapPtr := rfl
@[simp] theorem setF_ctl (s : State) (i : RegIdx) (v : Dword) : (s.setF i v).ctl = s.ctl := rfl
@[simp] theorem setF_run (s : State) (i : RegIdx) (v : Dword) : (s.setF i v).run = s.run := rfl
@[simp] theorem setF_draws (s : State) (i : RegIdx) (v : Dword) : (s.setF i v).draws = s.draws := rfl
@[simp] theorem setF_answer (s : State) (i : RegIdx) (v : Dword) : (s.setF i v).answer = s.answer := rfl
@[simp] theorem setF_agenda (s : State) (i : RegIdx) (v : Dword) : (s.setF i v).agenda = s.agenda := rfl
@[simp] theorem setPc_params (s : State) (a : Word) : (s.setPc a).params = s.params := rfl
@[simp] theorem setPc_x (s : State) (a : Word) : (s.setPc a).x = s.x := rfl
@[simp] theorem setPc_pc (s : State) (a : Word) : (s.setPc a).pc = a := rfl
@[simp] theorem setPc_f (s : State) (a : Word) : (s.setPc a).f = s.f := rfl
@[simp] theorem setPc_csr (s : State) (a : Word) : (s.setPc a).csr = s.csr := rfl
@[simp] theorem setPc_mem (s : State) (a : Word) : (s.setPc a).mem = s.mem := rfl
@[simp] theorem setPc_heapPtr (s : State) (a : Word) : (s.setPc a).heapPtr = s.heapPtr := rfl
@[simp] theorem setPc_ctl (s : State) (a : Word) : (s.setPc a).ctl = s.ctl := rfl
@[simp] theorem setPc_run (s : State) (a : Word) : (s.setPc a).run = s.run := rfl
@[simp] theorem setPc_draws (s : State) (a : Word) : (s.setPc a).draws = s.draws := rfl
@[simp] theorem setPc_answer (s : State) (a : Word) : (s.setPc a).answer = s.answer := rfl
@[simp] theorem setPc_agenda (s : State) (a : Word) : (s.setPc a).agenda = s.agenda := rfl

theorem getX_congr {s t : State} (h : t.x = s.x) (i : RegIdx) : t.getX i = s.getX i := by unfold State.getX; rw [h]

theorem getF_congr {s t : State} (h : t.f = s.f) (i : RegIdx) : t.getF i = s.getF i := by unfold State.getF; rw [h]

theorem byteAt_congr {s t : State} (h : t.mem = s.mem) (a : Nat) : t.byteAt a = s.byteAt a := by
  unfold State.byteAt; rw [h]

@[simp] theorem getX_zero (s : State) : s.getX 0#5 = 0#32 := rfl

@[simp] theorem setX_zero (s : State) (v : Word) : s.setX 0#5 v = s := rfl

/-- A register read after a register write (R22, R31). -/
theorem getX_setX (s : State) (i j : RegIdx) (v : Word) :
    (s.setX i v).getX j = if j = i ∧ i ≠ 0#5 then v else s.getX j := by
  unfold State.getX State.setX
  by_cases hj : j = 0#5 <;> by_cases hi : i = 0#5 <;> by_cases h : j = i <;>
    simp_all [← BitVec.toNat_inj, eq_comm]

theorem getX_setX_self (s : State) (i : RegIdx) (v : Word) : (s.setX i v).getX i = if i = 0#5 then 0#32 else v := by
  rw [getX_setX]
  by_cases h : i = 0#5 <;> simp [h]

theorem getX_setX_of_ne (s : State) {i j : RegIdx} (h : j ≠ i) (v : Word) : (s.setX i v).getX j = s.getX j := by
  rw [getX_setX, if_neg fun e => h e.1]

@[simp] theorem getF_setX (s : State) (i : RegIdx) (v : Word) (j : RegIdx) : (s.setX i v).getF j = s.getF j :=
  getF_congr (setX_f s i v) j

@[simp] theorem byteAt_setX (s : State) (i : RegIdx) (v : Word) (a : Nat) : (s.setX i v).byteAt a = s.byteAt a :=
  byteAt_congr (setX_mem s i v) a

/-- A floating-point register read after a write (R30). -/
theorem getF_setF (s : State) (i j : RegIdx) (v : Dword) : (s.setF i v).getF j = if j = i then v else s.getF j := by
  unfold State.getF State.setF
  by_cases h : j = i <;> simp_all [← BitVec.toNat_inj, eq_comm]

@[simp] theorem getX_setF (s : State) (i j : RegIdx) (v : Dword) : (s.setF i v).getX j = s.getX j := rfl

/-! ## Advance, count and completion -/

@[simp] theorem advance_params (s : State) : (advance s).params = s.params := rfl
@[simp] theorem advance_x (s : State) : (advance s).x = s.x := rfl
@[simp] theorem advance_pc (s : State) : (advance s).pc = s.pc + 4#32 := rfl
@[simp] theorem advance_f (s : State) : (advance s).f = s.f := rfl
@[simp] theorem advance_csr (s : State) : (advance s).csr = s.csr := rfl
@[simp] theorem advance_mem (s : State) : (advance s).mem = s.mem := rfl
@[simp] theorem advance_heapPtr (s : State) : (advance s).heapPtr = s.heapPtr := rfl
@[simp] theorem advance_ctl (s : State) : (advance s).ctl = s.ctl := rfl
@[simp] theorem advance_run (s : State) : (advance s).run = s.run := rfl
@[simp] theorem advance_draws (s : State) : (advance s).draws = s.draws := rfl
@[simp] theorem advance_answer (s : State) : (advance s).answer = s.answer := rfl
@[simp] theorem advance_agenda (s : State) : (advance s).agenda = s.agenda := rfl
@[simp] theorem count_params (s : State) : (count s).params = s.params := rfl
@[simp] theorem count_x (s : State) : (count s).x = s.x := rfl
@[simp] theorem count_pc (s : State) : (count s).pc = s.pc := rfl
@[simp] theorem count_f (s : State) : (count s).f = s.f := rfl
@[simp] theorem count_mem (s : State) : (count s).mem = s.mem := rfl
@[simp] theorem count_heapPtr (s : State) : (count s).heapPtr = s.heapPtr := rfl
@[simp] theorem count_ctl (s : State) : (count s).ctl = s.ctl := rfl
@[simp] theorem count_run (s : State) : (count s).run = s.run := rfl
@[simp] theorem count_draws (s : State) : (count s).draws = s.draws + 1 := rfl
@[simp] theorem count_answer (s : State) : (count s).answer = s.answer := rfl
@[simp] theorem count_agenda (s : State) : (count s).agenda = s.agenda := rfl
@[simp] theorem count_ustatus (s : State) : (count s).csr.ustatus = s.csr.ustatus := rfl
@[simp] theorem count_fcsr (s : State) : (count s).csr.fcsr = s.csr.fcsr := rfl
@[simp] theorem count_uie (s : State) : (count s).csr.uie = s.csr.uie := rfl
@[simp] theorem count_utvec (s : State) : (count s).csr.utvec = s.csr.utvec := rfl
@[simp] theorem count_uscratch (s : State) : (count s).csr.uscratch = s.csr.uscratch := rfl
@[simp] theorem count_uepc (s : State) : (count s).csr.uepc = s.csr.uepc := rfl
@[simp] theorem count_ucause (s : State) : (count s).csr.ucause = s.csr.ucause := rfl
@[simp] theorem count_utval (s : State) : (count s).csr.utval = s.csr.utval := rfl
@[simp] theorem count_uip (s : State) : (count s).csr.uip = s.csr.uip := rfl
@[simp] theorem count_cycle64 (s : State) : (count s).csr.cycle64 = s.csr.cycle64 + 1#64 := rfl
@[simp] theorem count_instret64 (s : State) : (count s).csr.instret64 = s.csr.instret64 + 1#64 := rfl
@[simp] theorem count_time64 (s : State) : (count s).csr.time64 = Config.timeSource s.draws := rfl
@[simp] theorem getX_advance (s : State) (i : RegIdx) : (advance s).getX i = s.getX i := rfl
@[simp] theorem getF_advance (s : State) (i : RegIdx) : (advance s).getF i = s.getF i := rfl
@[simp] theorem byteAt_advance (s : State) (a : Nat) : (advance s).byteAt a = s.byteAt a := rfl
@[simp] theorem getX_count (s : State) (i : RegIdx) : (count s).getX i = s.getX i := rfl
@[simp] theorem getF_count (s : State) (i : RegIdx) : (count s).getF i = s.getF i := rfl
@[simp] theorem byteAt_count (s : State) (a : Nat) : (count s).byteAt a = s.byteAt a := rfl
@[simp] theorem getX_setPc (s : State) (a : Word) (i : RegIdx) : (s.setPc a).getX i = s.getX i := rfl
@[simp] theorem getF_setPc (s : State) (a : Word) (i : RegIdx) : (s.setPc a).getF i = s.getF i := rfl
@[simp] theorem byteAt_setPc (s : State) (a : Word) (b : Nat) : (s.setPc a).byteAt b = s.byteAt b := rfl
@[simp] theorem complete_eq (s : State) : complete s = count (advance s) := rfl
@[simp] theorem completeAt_eq (s : State) (a : Word) : completeAt a s = count (s.setPc a) := rfl

/-! ## CSR writes -/

@[simp] theorem csrPut_params (c : CsrName) (v : Word) (s : State) : (csrPut c v s).params = s.params := by cases c <;> rfl
@[simp] theorem csrPut_x (c : CsrName) (v : Word) (s : State) : (csrPut c v s).x = s.x := by cases c <;> rfl
@[simp] theorem csrPut_pc (c : CsrName) (v : Word) (s : State) : (csrPut c v s).pc = s.pc := by cases c <;> rfl
@[simp] theorem csrPut_f (c : CsrName) (v : Word) (s : State) : (csrPut c v s).f = s.f := by cases c <;> rfl
@[simp] theorem csrPut_mem (c : CsrName) (v : Word) (s : State) : (csrPut c v s).mem = s.mem := by cases c <;> rfl
@[simp] theorem csrPut_heapPtr (c : CsrName) (v : Word) (s : State) : (csrPut c v s).heapPtr = s.heapPtr := by cases c <;> rfl
@[simp] theorem csrPut_ctl (c : CsrName) (v : Word) (s : State) : (csrPut c v s).ctl = s.ctl := by cases c <;> rfl
@[simp] theorem csrPut_run (c : CsrName) (v : Word) (s : State) : (csrPut c v s).run = s.run := by cases c <;> rfl
@[simp] theorem csrPut_draws (c : CsrName) (v : Word) (s : State) : (csrPut c v s).draws = s.draws := by cases c <;> rfl
@[simp] theorem csrPut_answer (c : CsrName) (v : Word) (s : State) : (csrPut c v s).answer = s.answer := by cases c <;> rfl
@[simp] theorem csrPut_agenda (c : CsrName) (v : Word) (s : State) : (csrPut c v s).agenda = s.agenda := by cases c <;> rfl
@[simp] theorem csrWrite_params (n : CsrNum) (v : Word) (s : State) : (csrWrite n v s).params = s.params :=
  by unfold csrWrite; split <;> simp
@[simp] theorem csrWrite_x (n : CsrNum) (v : Word) (s : State) : (csrWrite n v s).x = s.x := by unfold csrWrite; split <;> simp
@[simp] theorem csrWrite_pc (n : CsrNum) (v : Word) (s : State) : (csrWrite n v s).pc = s.pc :=
  by unfold csrWrite; split <;> simp
@[simp] theorem csrWrite_f (n : CsrNum) (v : Word) (s : State) : (csrWrite n v s).f = s.f := by unfold csrWrite; split <;> simp
@[simp] theorem csrWrite_mem (n : CsrNum) (v : Word) (s : State) : (csrWrite n v s).mem = s.mem :=
  by unfold csrWrite; split <;> simp
@[simp] theorem csrWrite_heapPtr (n : CsrNum) (v : Word) (s : State) : (csrWrite n v s).heapPtr = s.heapPtr :=
  by unfold csrWrite; split <;> simp
@[simp] theorem csrWrite_ctl (n : CsrNum) (v : Word) (s : State) : (csrWrite n v s).ctl = s.ctl :=
  by unfold csrWrite; split <;> simp
@[simp] theorem csrWrite_run (n : CsrNum) (v : Word) (s : State) : (csrWrite n v s).run = s.run :=
  by unfold csrWrite; split <;> simp
@[simp] theorem csrWrite_draws (n : CsrNum) (v : Word) (s : State) : (csrWrite n v s).draws = s.draws :=
  by unfold csrWrite; split <;> simp
@[simp] theorem csrWrite_answer (n : CsrNum) (v : Word) (s : State) : (csrWrite n v s).answer = s.answer :=
  by unfold csrWrite; split <;> simp
@[simp] theorem csrWrite_agenda (n : CsrNum) (v : Word) (s : State) : (csrWrite n v s).agenda = s.agenda :=
  by unfold csrWrite; split <;> simp
@[simp] theorem csrPut_cycle64 (c : CsrName) (v : Word) (s : State) : (csrPut c v s).csr.cycle64 = s.csr.cycle64 :=
  by cases c <;> rfl
@[simp] theorem csrWrite_cycle64 (n : CsrNum) (v : Word) (s : State) : (csrWrite n v s).csr.cycle64 = s.csr.cycle64 :=
  by unfold csrWrite; split <;> simp
@[simp] theorem csrPut_time64 (c : CsrName) (v : Word) (s : State) : (csrPut c v s).csr.time64 = s.csr.time64 :=
  by cases c <;> rfl
@[simp] theorem csrWrite_time64 (n : CsrNum) (v : Word) (s : State) : (csrWrite n v s).csr.time64 = s.csr.time64 :=
  by unfold csrWrite; split <;> simp
@[simp] theorem csrPut_instret64 (c : CsrName) (v : Word) (s : State) : (csrPut c v s).csr.instret64 = s.csr.instret64 :=
  by cases c <;> rfl
@[simp] theorem csrWrite_instret64 (n : CsrNum) (v : Word) (s : State) : (csrWrite n v s).csr.instret64 = s.csr.instret64 :=
  by unfold csrWrite; split <;> simp
@[simp] theorem getX_csrPut (c : CsrName) (v : Word) (s : State) (i : RegIdx) : (csrPut c v s).getX i = s.getX i :=
  getX_congr (csrPut_x c v s) i
@[simp] theorem getF_csrPut (c : CsrName) (v : Word) (s : State) (i : RegIdx) : (csrPut c v s).getF i = s.getF i :=
  getF_congr (csrPut_f c v s) i
@[simp] theorem byteAt_csrPut (c : CsrName) (v : Word) (s : State) (b : Nat) : (csrPut c v s).byteAt b = s.byteAt b :=
  byteAt_congr (csrPut_mem c v s) b
@[simp] theorem getX_csrWrite (n : CsrNum) (v : Word) (s : State) (i : RegIdx) : (csrWrite n v s).getX i = s.getX i :=
  getX_congr (csrWrite_x n v s) i
@[simp] theorem getF_csrWrite (n : CsrNum) (v : Word) (s : State) (i : RegIdx) : (csrWrite n v s).getF i = s.getF i :=
  getF_congr (csrWrite_f n v s) i
@[simp] theorem byteAt_csrWrite (n : CsrNum) (v : Word) (s : State) (b : Nat) : (csrWrite n v s).byteAt b = s.byteAt b :=
  byteAt_congr (csrWrite_mem n v s) b

/-! ## Halts -/

@[simp] theorem halt_params (r : HaltReason) (s : State) : (halt r s).params = s.params := rfl
@[simp] theorem halt_x (r : HaltReason) (s : State) : (halt r s).x = s.x := rfl
@[simp] theorem halt_f (r : HaltReason) (s : State) : (halt r s).f = s.f := rfl
@[simp] theorem halt_csr (r : HaltReason) (s : State) : (halt r s).csr = s.csr := rfl
@[simp] theorem halt_mem (r : HaltReason) (s : State) : (halt r s).mem = s.mem := rfl
@[simp] theorem halt_heapPtr (r : HaltReason) (s : State) : (halt r s).heapPtr = s.heapPtr := rfl
@[simp] theorem halt_ctl (r : HaltReason) (s : State) : (halt r s).ctl = s.ctl := rfl
@[simp] theorem halt_answer (r : HaltReason) (s : State) : (halt r s).answer = s.answer := rfl
@[simp] theorem halt_agenda (r : HaltReason) (s : State) : (halt r s).agenda = s.agenda := rfl
@[simp] theorem halt_pc (r : HaltReason) (s : State) (h : haltState r ≠ .terminated) : (halt r s).pc = s.pc := if_neg h
@[simp] theorem halt_draws (r : HaltReason) (s : State) : (halt r s).draws = s.draws + 1 := rfl
@[simp] theorem halt_runState (r : HaltReason) (s : State) : (halt r s).run.runState = haltState r := rfl
@[simp] theorem halt_haltReason (r : HaltReason) (s : State) : (halt r s).run.haltReason = r := rfl
@[simp] theorem halt_stopReq (r : HaltReason) (s : State) : (halt r s).run.stopReq = false := rfl
@[simp] theorem halt_pauseReq (r : HaltReason) (s : State) : (halt r s).run.pauseReq = false := rfl
@[simp] theorem halt_stepsLeft (r : HaltReason) (s : State) : (halt r s).run.stepsLeft = s.run.stepsLeft := rfl
@[simp] theorem halt_breakpoints (r : HaltReason) (s : State) : (halt r s).run.breakpoints = s.run.breakpoints := rfl
@[simp] theorem getX_halt (r : HaltReason) (s : State) (i : RegIdx) : (halt r s).getX i = s.getX i := rfl
@[simp] theorem getF_halt (r : HaltReason) (s : State) (i : RegIdx) : (halt r s).getF i = s.getF i := rfl
@[simp] theorem byteAt_halt (r : HaltReason) (s : State) (a : Nat) : (halt r s).byteAt a = s.byteAt a := rfl
@[simp] theorem haltException_params (p c v : Word) (s : State) : (haltException p c v s).params = s.params := rfl
@[simp] theorem haltException_x (p c v : Word) (s : State) : (haltException p c v s).x = s.x := rfl
@[simp] theorem haltException_f (p c v : Word) (s : State) : (haltException p c v s).f = s.f := rfl
@[simp] theorem haltException_csr (p c v : Word) (s : State) : (haltException p c v s).csr = s.csr := rfl
@[simp] theorem haltException_mem (p c v : Word) (s : State) : (haltException p c v s).mem = s.mem := rfl
@[simp] theorem haltException_heapPtr (p c v : Word) (s : State) : (haltException p c v s).heapPtr = s.heapPtr := rfl
@[simp] theorem haltException_ctl (p c v : Word) (s : State) : (haltException p c v s).ctl = s.ctl := rfl
@[simp] theorem haltException_answer (p c v : Word) (s : State) : (haltException p c v s).answer = s.answer := rfl
@[simp] theorem haltException_agenda (p c v : Word) (s : State) : (haltException p c v s).agenda = s.agenda := rfl
@[simp] theorem haltException_runState (p c v : Word) (s : State) : (haltException p c v s).run.runState = .terminated := rfl
@[simp] theorem haltException_haltReason (p c v : Word) (s : State) : (haltException p c v s).run.haltReason = .exception := rfl
@[simp] theorem haltException_faultPc (p c v : Word) (s : State) : (haltException p c v s).run.faultPc = p := rfl
@[simp] theorem haltException_faultCause (p c v : Word) (s : State) : (haltException p c v s).run.faultCause = c := rfl
@[simp] theorem haltException_faultValue (p c v : Word) (s : State) : (haltException p c v s).run.faultValue = v := rfl
@[simp] theorem haltException_stopReq (p c v : Word) (s : State) : (haltException p c v s).run.stopReq = false := rfl
@[simp] theorem haltException_pauseReq (p c v : Word) (s : State) : (haltException p c v s).run.pauseReq = false := rfl
@[simp] theorem haltExit_params (c : Word) (s : State) : (haltExit c s).params = s.params := rfl
@[simp] theorem haltExit_x (c : Word) (s : State) : (haltExit c s).x = s.x := rfl
@[simp] theorem haltExit_f (c : Word) (s : State) : (haltExit c s).f = s.f := rfl
@[simp] theorem haltExit_csr (c : Word) (s : State) : (haltExit c s).csr = s.csr := rfl
@[simp] theorem haltExit_mem (c : Word) (s : State) : (haltExit c s).mem = s.mem := rfl
@[simp] theorem haltExit_heapPtr (c : Word) (s : State) : (haltExit c s).heapPtr = s.heapPtr := rfl
@[simp] theorem haltExit_ctl (c : Word) (s : State) : (haltExit c s).ctl = s.ctl := rfl
@[simp] theorem haltExit_answer (c : Word) (s : State) : (haltExit c s).answer = s.answer := rfl
@[simp] theorem haltExit_agenda (c : Word) (s : State) : (haltExit c s).agenda = s.agenda := rfl
@[simp] theorem haltExit_runState (c : Word) (s : State) : (haltExit c s).run.runState = .terminated := rfl
@[simp] theorem haltExit_haltReason (c : Word) (s : State) : (haltExit c s).run.haltReason = .normalTermination := rfl
@[simp] theorem haltExit_exitCode (c : Word) (s : State) : (haltExit c s).run.exitCode = c := rfl

/-! ## The budget -/

@[simp] theorem countdown_params (s : State) : (countdown s).params = s.params := rfl
@[simp] theorem countdown_x (s : State) : (countdown s).x = s.x := rfl
@[simp] theorem countdown_pc (s : State) : (countdown s).pc = s.pc := rfl
@[simp] theorem countdown_f (s : State) : (countdown s).f = s.f := rfl
@[simp] theorem countdown_csr (s : State) : (countdown s).csr = s.csr := rfl
@[simp] theorem countdown_mem (s : State) : (countdown s).mem = s.mem := rfl
@[simp] theorem countdown_heapPtr (s : State) : (countdown s).heapPtr = s.heapPtr := rfl
@[simp] theorem countdown_ctl (s : State) : (countdown s).ctl = s.ctl := rfl
@[simp] theorem countdown_draws (s : State) : (countdown s).draws = s.draws := rfl
@[simp] theorem countdown_answer (s : State) : (countdown s).answer = s.answer := rfl
@[simp] theorem countdown_agenda (s : State) : (countdown s).agenda = s.agenda := rfl
@[simp] theorem countdown_runState (s : State) : (countdown s).run.runState = s.run.runState := rfl
@[simp] theorem countdown_breakpoints (s : State) : (countdown s).run.breakpoints = s.run.breakpoints := rfl
@[simp] theorem countdown_stepsLeft (s : State) : (countdown s).run.stepsLeft = s.run.stepsLeft.map (fun n => n - 1) := rfl
@[simp] theorem countdown_stopReq (s : State) : (countdown s).run.stopReq = s.run.stopReq := rfl
@[simp] theorem countdown_pauseReq (s : State) : (countdown s).run.pauseReq = s.run.pauseReq := rfl

/-! ## The check's last action, trap entry and the return -/

@[simp] theorem refreshUip_params (s : State) : (refreshUip s).params = s.params := rfl
@[simp] theorem refreshUip_x (s : State) : (refreshUip s).x = s.x := rfl
@[simp] theorem refreshUip_pc (s : State) : (refreshUip s).pc = s.pc := rfl
@[simp] theorem refreshUip_f (s : State) : (refreshUip s).f = s.f := rfl
@[simp] theorem refreshUip_mem (s : State) : (refreshUip s).mem = s.mem := rfl
@[simp] theorem refreshUip_heapPtr (s : State) : (refreshUip s).heapPtr = s.heapPtr := rfl
@[simp] theorem refreshUip_ctl (s : State) : (refreshUip s).ctl = s.ctl := rfl
@[simp] theorem refreshUip_run (s : State) : (refreshUip s).run = s.run := rfl
@[simp] theorem refreshUip_draws (s : State) : (refreshUip s).draws = s.draws := rfl
@[simp] theorem refreshUip_answer (s : State) : (refreshUip s).answer = s.answer := rfl
@[simp] theorem refreshUip_agenda (s : State) : (refreshUip s).agenda = s.agenda := rfl
@[simp] theorem refreshUip_ustatus (s : State) : (refreshUip s).csr.ustatus = s.csr.ustatus := rfl
@[simp] theorem refreshUip_fcsr (s : State) : (refreshUip s).csr.fcsr = s.csr.fcsr := rfl
@[simp] theorem refreshUip_uie (s : State) : (refreshUip s).csr.uie = s.csr.uie := rfl
@[simp] theorem refreshUip_utvec (s : State) : (refreshUip s).csr.utvec = s.csr.utvec := rfl
@[simp] theorem refreshUip_uscratch (s : State) : (refreshUip s).csr.uscratch = s.csr.uscratch := rfl
@[simp] theorem refreshUip_uepc (s : State) : (refreshUip s).csr.uepc = s.csr.uepc := rfl
@[simp] theorem refreshUip_ucause (s : State) : (refreshUip s).csr.ucause = s.csr.ucause := rfl
@[simp] theorem refreshUip_utval (s : State) : (refreshUip s).csr.utval = s.csr.utval := rfl
@[simp] theorem refreshUip_cycle64 (s : State) : (refreshUip s).csr.cycle64 = s.csr.cycle64 := rfl
@[simp] theorem refreshUip_time64 (s : State) : (refreshUip s).csr.time64 = s.csr.time64 := rfl
@[simp] theorem refreshUip_instret64 (s : State) : (refreshUip s).csr.instret64 = s.csr.instret64 := rfl
@[simp] theorem saveTrap_params (e : TrapEvent) (s : State) : (saveTrap e s).params = s.params := rfl
@[simp] theorem saveTrap_x (e : TrapEvent) (s : State) : (saveTrap e s).x = s.x := rfl
@[simp] theorem saveTrap_pc (e : TrapEvent) (s : State) : (saveTrap e s).pc = s.pc := rfl
@[simp] theorem saveTrap_f (e : TrapEvent) (s : State) : (saveTrap e s).f = s.f := rfl
@[simp] theorem saveTrap_mem (e : TrapEvent) (s : State) : (saveTrap e s).mem = s.mem := rfl
@[simp] theorem saveTrap_heapPtr (e : TrapEvent) (s : State) : (saveTrap e s).heapPtr = s.heapPtr := rfl
@[simp] theorem saveTrap_ctl (e : TrapEvent) (s : State) : (saveTrap e s).ctl = s.ctl := rfl
@[simp] theorem saveTrap_run (e : TrapEvent) (s : State) : (saveTrap e s).run = s.run := rfl
@[simp] theorem saveTrap_draws (e : TrapEvent) (s : State) : (saveTrap e s).draws = s.draws := rfl
@[simp] theorem saveTrap_answer (e : TrapEvent) (s : State) : (saveTrap e s).answer = s.answer := rfl
@[simp] theorem saveTrap_agenda (e : TrapEvent) (s : State) : (saveTrap e s).agenda = s.agenda := rfl
@[simp] theorem saveTrap_ucause (e : TrapEvent) (s : State) : (saveTrap e s).csr.ucause = e.cause := rfl
@[simp] theorem saveTrap_uepc (e : TrapEvent) (s : State) : (saveTrap e s).csr.uepc = e.epc := rfl
@[simp] theorem saveTrap_utval (e : TrapEvent) (s : State) : (saveTrap e s).csr.utval = e.value := rfl
@[simp] theorem saveTrap_ustatus (e : TrapEvent) (s : State) : (saveTrap e s).csr.ustatus = s.csr.ustatus := rfl
@[simp] theorem saveTrap_fcsr (e : TrapEvent) (s : State) : (saveTrap e s).csr.fcsr = s.csr.fcsr := rfl
@[simp] theorem saveTrap_uie (e : TrapEvent) (s : State) : (saveTrap e s).csr.uie = s.csr.uie := rfl
@[simp] theorem saveTrap_utvec (e : TrapEvent) (s : State) : (saveTrap e s).csr.utvec = s.csr.utvec := rfl
@[simp] theorem saveTrap_uscratch (e : TrapEvent) (s : State) : (saveTrap e s).csr.uscratch = s.csr.uscratch := rfl
@[simp] theorem saveTrap_uip (e : TrapEvent) (s : State) : (saveTrap e s).csr.uip = s.csr.uip := rfl
@[simp] theorem saveTrap_cycle64 (e : TrapEvent) (s : State) : (saveTrap e s).csr.cycle64 = s.csr.cycle64 := rfl
@[simp] theorem saveTrap_time64 (e : TrapEvent) (s : State) : (saveTrap e s).csr.time64 = s.csr.time64 := rfl
@[simp] theorem saveTrap_instret64 (e : TrapEvent) (s : State) : (saveTrap e s).csr.instret64 = s.csr.instret64 := rfl
@[simp] theorem orRegister_params (c : CsrName) (m : Word) (s : State) : (orRegister c m s).params = s.params :=
  csrPut_params c _ s
@[simp] theorem orRegister_x (c : CsrName) (m : Word) (s : State) : (orRegister c m s).x = s.x := csrPut_x c _ s
@[simp] theorem orRegister_pc (c : CsrName) (m : Word) (s : State) : (orRegister c m s).pc = s.pc := csrPut_pc c _ s
@[simp] theorem orRegister_f (c : CsrName) (m : Word) (s : State) : (orRegister c m s).f = s.f := csrPut_f c _ s
@[simp] theorem orRegister_mem (c : CsrName) (m : Word) (s : State) : (orRegister c m s).mem = s.mem := csrPut_mem c _ s
@[simp] theorem orRegister_heapPtr (c : CsrName) (m : Word) (s : State) : (orRegister c m s).heapPtr = s.heapPtr :=
  csrPut_heapPtr c _ s
@[simp] theorem orRegister_ctl (c : CsrName) (m : Word) (s : State) : (orRegister c m s).ctl = s.ctl := csrPut_ctl c _ s
@[simp] theorem orRegister_run (c : CsrName) (m : Word) (s : State) : (orRegister c m s).run = s.run := csrPut_run c _ s
@[simp] theorem orRegister_draws (c : CsrName) (m : Word) (s : State) : (orRegister c m s).draws = s.draws := csrPut_draws c _ s
@[simp] theorem orRegister_answer (c : CsrName) (m : Word) (s : State) : (orRegister c m s).answer = s.answer :=
  csrPut_answer c _ s
@[simp] theorem orRegister_agenda (c : CsrName) (m : Word) (s : State) : (orRegister c m s).agenda = s.agenda :=
  csrPut_agenda c _ s
@[simp] theorem clearRegister_params (c : CsrName) (m : Word) (s : State) : (clearRegister c m s).params = s.params :=
  csrPut_params c _ s
@[simp] theorem clearRegister_x (c : CsrName) (m : Word) (s : State) : (clearRegister c m s).x = s.x := csrPut_x c _ s
@[simp] theorem clearRegister_pc (c : CsrName) (m : Word) (s : State) : (clearRegister c m s).pc = s.pc := csrPut_pc c _ s
@[simp] theorem clearRegister_f (c : CsrName) (m : Word) (s : State) : (clearRegister c m s).f = s.f := csrPut_f c _ s
@[simp] theorem clearRegister_mem (c : CsrName) (m : Word) (s : State) : (clearRegister c m s).mem = s.mem := csrPut_mem c _ s
@[simp] theorem clearRegister_heapPtr (c : CsrName) (m : Word) (s : State) : (clearRegister c m s).heapPtr = s.heapPtr :=
  csrPut_heapPtr c _ s
@[simp] theorem clearRegister_ctl (c : CsrName) (m : Word) (s : State) : (clearRegister c m s).ctl = s.ctl := csrPut_ctl c _ s
@[simp] theorem clearRegister_run (c : CsrName) (m : Word) (s : State) : (clearRegister c m s).run = s.run := csrPut_run c _ s
@[simp] theorem clearRegister_draws (c : CsrName) (m : Word) (s : State) : (clearRegister c m s).draws = s.draws :=
  csrPut_draws c _ s
@[simp] theorem clearRegister_answer (c : CsrName) (m : Word) (s : State) : (clearRegister c m s).answer = s.answer :=
  csrPut_answer c _ s
@[simp] theorem clearRegister_agenda (c : CsrName) (m : Word) (s : State) : (clearRegister c m s).agenda = s.agenda :=
  csrPut_agenda c _ s

end Sys2Proof.Machine
end

