-- ==== Sys2Proof/Laws/Ops.lean ====
section
/-! SUPPORT. What each shared operation can do, said once: the CSR file, the access check, raising, the check, trap entry, the heap
allocator and the environment. -/

namespace Sys2Proof.Machine

/-! ## The CSR file -/

@[simp] theorem csrOfNumber_csrNumber (c : CsrName) : csrOfNumber (csrNumber c) = some c := by cases c <;> decide

theorem csrNumber_of_csrOfNumber {n : CsrNum} {c : CsrName} (h : csrOfNumber n = some c) : csrNumber c = n := by
  have := List.find?_some h
  simpa using this

theorem csrRead_csrNumber (c : CsrName) (s : State) : csrRead (csrNumber c) s = csrGet c s := by simp [csrRead]

theorem csrWrite_csrNumber (c : CsrName) (v : Word) (s : State) : csrWrite (csrNumber c) v s = csrPut c v s := by
  simp [csrWrite]

/-- A masked write keeps the protected bits (R33). -/
theorem maskedWrite_and_mask (m old v : Word) : maskedWrite m old v &&& m = old &&& m := by
  unfold maskedWrite
  ext i hi
  simp
  cases m[i] <;> simp

/-- A masked write takes the unprotected bits (R33). -/
theorem maskedWrite_and_not_mask (m old v : Word) : maskedWrite m old v &&& ~~~m = v &&& ~~~m := by
  unfold maskedWrite
  ext i hi
  simp
  cases m[i] <;> simp

/-- Every CSR write keeps the protected bits of `ustatus` (R39). -/
@[simp] theorem csrPut_ustatus_reserved (c : CsrName) (v : Word) (s : State) :
    (csrPut c v s).csr.ustatus &&& ustatusMask = s.csr.ustatus &&& ustatusMask := by
  cases c
  · exact maskedWrite_and_mask _ _ _
  all_goals rfl

/-- Every CSR write keeps the protected bits of `fcsr` (R42). -/
@[simp] theorem csrPut_fcsr_reserved (c : CsrName) (v : Word) (s : State) :
    (csrPut c v s).csr.fcsr &&& fcsrMask = s.csr.fcsr &&& fcsrMask := by
  cases c
  case fflags => exact maskedWrite_and_mask _ _ _
  case frm => exact maskedWrite_and_mask _ _ _
  case fcsr => exact maskedWrite_and_mask _ _ _
  all_goals rfl

@[simp] theorem csrWrite_ustatus_reserved (n : CsrNum) (v : Word) (s : State) :
    (csrWrite n v s).csr.ustatus &&& ustatusMask = s.csr.ustatus &&& ustatusMask := by
  unfold csrWrite
  split <;> simp

@[simp] theorem csrWrite_fcsr_reserved (n : CsrNum) (v : Word) (s : State) :
    (csrWrite n v s).csr.fcsr &&& fcsrMask = s.csr.fcsr &&& fcsrMask := by
  unfold csrWrite
  split <;> simp

/-! ## The access check -/

/-- What a successful check guarantees (R89). -/
theorem resolve_ok {p : Params} {hp a : Word} {w : Width} {k : AccessKind} {seg : Segment}
    (h : resolve p hp a w k = .ok seg) :
    ¬(mustAlign p w = true ∧ a.toNat % w.bytes ≠ 0) ∧ a.toNat + w.bytes ≤ 2 ^ 32 ∧
      (∀ i < w.bytes, segmentOf p.memcfg hp (a.toNat + i) = some seg) ∧ policyAllows p seg k = true := by
  unfold resolve at h
  have hb : 0 < w.bytes := by cases w <;> decide
  split at h
  · cases h
  · split at h
    · cases h
    · split at h
      · cases h
      · rename_i hal _ seg' _ hcross
        split at h
        · cases h
          simp only [not_or, not_not, not_lt, gt_iff_lt] at hcross
          refine ⟨hal, by omega, fun i hi => hcross.2 i (List.mem_range.mpr hi), ‹_›⟩
        · cases h

/-- What a failed check reports (R89): the failure names the kind and the first byte of the access. -/
theorem resolve_error {p : Params} {hp a : Word} {w : Width} {k : AccessKind} {e : AccessFault}
    (h : resolve p hp a w k = .error e) :
    ((mustAlign p w = true ∧ a.toNat % w.bytes ≠ 0) ∧ e = .misaligned k a) ∨
      (¬(mustAlign p w = true ∧ a.toNat % w.bytes ≠ 0) ∧ e = .access k a) := by
  unfold resolve at h
  split at h
  · cases h
    exact .inl ⟨‹_›, rfl⟩
  · refine .inr ⟨‹_›, ?_⟩
    split at h
    · cases h
      rfl
    · split at h
      · cases h
        rfl
      · split at h <;> cases h
        rfl

/-- A read either resolves and gives the bytes, or fails as the check does (R90). -/
theorem memRead_cases (a : Word) (w : Width) (s : State) :
    (∃ seg, resolve s.params s.heapPtr a w .load = .ok seg ∧
      memRead a w s = .ok (BitVec.ofNat 64 (leNat (s.mem.readBytes a.toNat w.bytes)))) ∨
    (∃ e, resolve s.params s.heapPtr a w .load = .error e ∧ memRead a w s = .error e) := by
  unfold memRead
  cases resolve s.params s.heapPtr a w .load with
  | ok seg => exact .inl ⟨seg, rfl, rfl⟩
  | error e => exact .inr ⟨e, rfl, rfl⟩

/-- A write either resolves and changes the bytes, or fails as the check does (R91). -/
theorem memWrite_cases (a : Word) (w : Width) (v : Dword) (s : State) :
    (∃ seg, resolve s.params s.heapPtr a w .store = .ok seg ∧
      memWrite a w v s = .ok { s with mem := s.mem.writeBytes a.toNat (leBytes w.bytes v.toNat) }) ∨
    (∃ e, resolve s.params s.heapPtr a w .store = .error e ∧ memWrite a w v s = .error e) := by
  unfold memWrite
  cases resolve s.params s.heapPtr a w .store with
  | ok seg => exact .inl ⟨seg, rfl, rfl⟩
  | error e => exact .inr ⟨e, rfl, rfl⟩

theorem memWrite_ok {a : Word} {w : Width} {v : Dword} {s t : State} (h : memWrite a w v s = .ok t) :
    a.toNat + w.bytes ≤ 2 ^ 32 ∧ t = { s with mem := s.mem.writeBytes a.toNat (leBytes w.bytes v.toNat) } := by
  rcases memWrite_cases a w v s with ⟨seg, hr, hw⟩ | ⟨e, -, hw⟩
  · rw [hw] at h
    cases h
    exact ⟨(resolve_ok hr).2.1, rfl⟩
  · rw [hw] at h
    cases h

/-- The word at an address is the little-endian value of its four bytes (R86, R94). -/
theorem wordAt_congr {s t : State} (h : t.mem = s.mem) (a : Word) : wordAt t a = wordAt s a := by
  unfold wordAt
  rw [h]

theorem fetch_congr {s t : State} (hp : t.params = s.params) (hh : t.heapPtr = s.heapPtr) (hm : t.mem = s.mem) (a : Word) :
    fetch a t = fetch a s := by
  unfold fetch
  rw [hp, hh, wordAt_congr hm]

/-! ## Raising (R350) -/

/-- Raising with no trap pending registers the trap and advances. -/
theorem raise_of_not_pending {s : State} (h : s.ctl.trapPending = false) (c v : Word) :
    raise c v s =
      { s with
        pc := s.pc + 4#32
        ctl := { s.ctl with trapCause := c, trapValue := v, trapPc := s.pc, trapPending := true } } := by
  unfold raise registerSynchronousTrap
  simp [h, advance]

/-- Raising with a trap pending halts. -/
theorem raise_of_pending {s : State} (h : s.ctl.trapPending = true) (c v : Word) :
    raise c v s = haltException s.pc c v s := by
  unfold raise registerSynchronousTrap
  simp [h]

/-! ## The check (R355) -/

/-- What the check can find, with the condition of each case. -/
theorem check_cases (s : State) :
    (s.ctl.trapPending = true ∧ s.ctl.trapPc = s.pc - 4#32 ∧
      check s = .event ⟨false, s.ctl.trapCause, s.ctl.trapValue, s.ctl.trapPc⟩
        (refreshUip { s with ctl := { s.ctl with trapPending := false } })) ∨
    (s.ctl.trapPending = true ∧ s.ctl.trapPc ≠ s.pc - 4#32 ∧ check s = .violation (halt .invariantViolation s)) ∨
    (s.ctl.trapPending = false ∧ s.csr.ustatus.getLsbD 0 = true ∧ s.ctl.extPending = true ∧ s.csr.uie.getLsbD 8 = true ∧
      check s = .event ⟨true, causeExternalInterrupt, s.ctl.extValue, s.pc⟩
        (refreshUip { s with ctl := { s.ctl with extPending := false } })) ∨
    (s.ctl.trapPending = false ∧ s.csr.ustatus.getLsbD 0 = true ∧ ¬(s.ctl.extPending = true ∧ s.csr.uie.getLsbD 8 = true) ∧
      s.csr.uip.getLsbD 0 = true ∧ s.csr.uie.getLsbD 0 = true ∧
      check s = .event ⟨true, causeSoftwareInterrupt, 0#32, s.pc⟩ (refreshUip (clearRegister .uip 0x1#32 s))) ∨
    (s.ctl.trapPending = false ∧ s.csr.ustatus.getLsbD 0 = true ∧ ¬(s.ctl.extPending = true ∧ s.csr.uie.getLsbD 8 = true) ∧
      ¬(s.csr.uip.getLsbD 0 = true ∧ s.csr.uie.getLsbD 0 = true) ∧ s.ctl.tmrPending = true ∧ s.csr.uie.getLsbD 4 = true ∧
      check s = .event ⟨true, causeTimerInterrupt, s.ctl.tmrValue, s.pc⟩
        (refreshUip { s with ctl := { s.ctl with tmrPending := false } })) ∨
    (s.ctl.trapPending = false ∧ (s.csr.ustatus.getLsbD 0 = true →
        ¬(s.ctl.extPending = true ∧ s.csr.uie.getLsbD 8 = true) ∧
        ¬(s.csr.uip.getLsbD 0 = true ∧ s.csr.uie.getLsbD 0 = true) ∧
        ¬(s.ctl.tmrPending = true ∧ s.csr.uie.getLsbD 4 = true)) ∧ check s = .nothing (refreshUip s)) := by
  unfold check claimTrap claimExternal claimTimer assertFailed ustatusUie
  simp only [csrGet]
  cases hp : s.ctl.trapPending <;> cases hu : s.csr.ustatus.getLsbD 0 <;> cases he : s.ctl.extPending <;>
    cases h8 : s.csr.uie.getLsbD 8 <;> cases hi : s.csr.uip.getLsbD 0 <;> cases h0 : s.csr.uie.getLsbD 0 <;>
    cases ht : s.ctl.tmrPending <;> cases h4 : s.csr.uie.getLsbD 4 <;>
    by_cases hc : s.ctl.trapPc = s.pc - 4#32 <;> simp [hc]

/-- A check that finds nothing: no trap was pending, and the mirror bits of `uip` are refreshed. -/
theorem check_nothing {s t : State} (h : check s = .nothing t) : s.ctl.trapPending = false ∧ t = refreshUip s := by
  rcases check_cases s with ⟨_, _, e⟩ | ⟨_, _, e⟩ | ⟨_, _, _, _, e⟩ | ⟨_, _, _, _, _, e⟩ | ⟨_, _, _, _, _, _, e⟩ | ⟨hp, _, e⟩ <;>
    rw [e] at h <;> cases h
  exact ⟨hp, rfl⟩

/-- A check that finds an event leaves no trap pending, and changes the controller and `uip` only; an interrupt needs `UIE`. -/
theorem check_event {s t : State} {e : TrapEvent} (h : check s = .event e t) :
    t.ctl.trapPending = false ∧ t = { s with ctl := t.ctl, csr := { s.csr with uip := t.csr.uip } } ∧
      (e.isInterrupt = true → s.csr.ustatus.getLsbD 0 = true) := by
  rcases check_cases s with ⟨_, _, e⟩ | ⟨_, _, e⟩ | ⟨hp, hu, _, _, e⟩ | ⟨hp, hu, _, _, _, e⟩ | ⟨hp, hu, _, _, _, _, e⟩ | ⟨_, _, e⟩ <;>
    rw [e] at h <;> cases h
  · exact ⟨rfl, rfl, fun h => by cases h⟩
  · exact ⟨hp, rfl, fun _ => hu⟩
  · exact ⟨hp, rfl, fun _ => hu⟩
  · exact ⟨hp, rfl, fun _ => hu⟩

/-- A failed assertion of the check: the pending trap is not the one of the instruction before `pc`. -/
theorem check_violation {s t : State} (h : check s = .violation t) :
    s.ctl.trapPending = true ∧ s.ctl.trapPc ≠ s.pc - 4#32 ∧ t = halt .invariantViolation s := by
  rcases check_cases s with ⟨_, _, e⟩ | ⟨hp, hc, e⟩ | ⟨_, _, _, _, e⟩ | ⟨_, _, _, _, _, e⟩ | ⟨_, _, _, _, _, _, e⟩ | ⟨_, _, e⟩ <;>
    rw [e] at h <;> cases h
  exact ⟨hp, hc, rfl⟩

/-! ## Trap entry (R360) -/

/-- What trap entry can do. -/
theorem enterTrap_cases (e : TrapEvent) (s : State) :
    (e.isInterrupt = true ∧ s.csr.utvec &&& 0x3#32 ≠ 0#32 ∧ enterTrap e s = .refused .reservedVectorMode) ∨
    (¬(e.isInterrupt = true ∧ s.csr.utvec &&& 0x3#32 ≠ 0#32) ∧ handlerPresent s = true ∧
      enterTrap e s = .next ((clearRegister .ustatus 0x1#32 (orRegister .ustatus 0x10#32 (saveTrap e s))).setPc
        (handlerBase s))) ∨
    (¬(e.isInterrupt = true ∧ s.csr.utvec &&& 0x3#32 ≠ 0#32) ∧ handlerPresent s = false ∧
      enterTrap e s = .next (haltException e.epc e.cause e.value (saveTrap e s))) := by
  have hp : handlerPresent (saveTrap e s) = handlerPresent s := rfl
  have hb : handlerBase (saveTrap e s) = handlerBase s := rfl
  have hv : csrGet .utvec (saveTrap e s) = s.csr.utvec := rfl
  unfold enterTrap
  simp only [hp, hb, hv]
  by_cases h : e.isInterrupt = true ∧ s.csr.utvec &&& 0x3#32 ≠ 0#32
  · exact .inl ⟨h.1, h.2, if_pos h⟩
  · cases hh : handlerPresent s
    · exact .inr (.inr ⟨h, rfl, by rw [if_neg h]; rfl⟩)
    · exact .inr (.inl ⟨h, rfl, by rw [if_neg h]; rfl⟩)

/-! ## The heap allocator (R95) -/

theorem allocateHeap_some {n : Int} {s t : State} {old : Word} (h : allocateHeap n s = some (old, t)) :
    0 ≤ n ∧ old = s.heapPtr ∧
      s.heapPtr.toNat + roundUp4 n ≤ (stackFloor s).toNat ∧
      s.heapPtr.toNat + roundUp4 n ≤ s.params.memcfg.stackBase.toNat + 4 ∧
      t = { s with heapPtr := BitVec.ofInt 32 (s.heapPtr.toNat + roundUp4 n) } := by
  unfold allocateHeap at h
  simp only at h
  split at h
  · cases h
  · split at h
    · cases h
    · cases h
      refine ⟨by omega, rfl, by omega, by omega, rfl⟩

theorem roundUp4_mod (n : Int) : roundUp4 n % 4 = 0 := by unfold roundUp4; omega

theorem le_roundUp4 (n : Int) : n ≤ roundUp4 n := by unfold roundUp4; omega

/-- The heap pointer after an allocation, as a number. -/
theorem allocateHeap_heapPtr {n : Int} {s t : State} {old : Word} (h : allocateHeap n s = some (old, t)) :
    (t.heapPtr.toNat : Int) = s.heapPtr.toNat + roundUp4 n := by
  obtain ⟨hn, -, hf, -, rfl⟩ := allocateHeap_some h
  have h1 := le_roundUp4 n
  have h2 := (stackFloor s).isLt
  simp only [BitVec.toNat_ofInt]
  omega

/-! ## The environment (R272, R273) -/

/-- The environment's accesses change memory and the heap pointer only. -/
theorem envAccesses_frame (l : List EnvAccess) (s : State) :
    (envAccesses l s).1 = { s with mem := (envAccesses l s).1.mem, heapPtr := (envAccesses l s).1.heapPtr } := by
  induction l generalizing s with
  | nil => rfl
  | cons op rest ih =>
    cases op with
    | read a w =>
      rcases memRead_cases a w s with ⟨_, -, h⟩ | ⟨_, -, h⟩ <;> simp only [envAccesses, h]
      exact ih s
    | write a w v =>
      rcases memWrite_cases a w v s with ⟨_, -, h⟩ | ⟨_, -, h⟩ <;> simp only [envAccesses, h]
      exact (ih _).trans rfl
    | alloc n =>
      simp only [envAccesses]
      cases h : allocateHeap n s with
      | none => exact ih s
      | some r =>
        obtain ⟨old, t⟩ := r
        obtain ⟨-, -, -, -, rfl⟩ := allocateHeap_some h
        exact (ih _).trans rfl

/-- The environment's accesses keep whatever each write and each allocation keeps. -/
theorem envAccesses_keeps {P : State → Prop}
    (hw : ∀ s t a w v, P s → memWrite a w v s = .ok t → P t)
    (ha : ∀ s t n old, P s → allocateHeap n s = some (old, t) → P t)
    (l : List EnvAccess) {s : State} (hs : P s) : P (envAccesses l s).1 := by
  induction l generalizing s with
  | nil => exact hs
  | cons op rest ih =>
    cases op with
    | read a w =>
      rcases memRead_cases a w s with ⟨_, -, h⟩ | ⟨_, -, h⟩ <;> simp only [envAccesses, h]
      · exact ih hs
      · exact hs
    | write a w v =>
      rcases memWrite_cases a w v s with ⟨_, -, h⟩ | ⟨_, -, h⟩ <;> simp only [envAccesses, h]
      · exact ih (hw _ _ _ _ _ hs h)
      · exact hs
    | alloc n =>
      simp only [envAccesses]
      cases h : allocateHeap n s with
      | none => exact ih hs
      | some r =>
        obtain ⟨old, t⟩ := r
        exact ih (ha _ _ _ _ hs h)

/-- The general registers of a Continue outcome change the register file only. -/
theorem applyXs_frame (l : List (RegIdx × Word)) (s : State) : applyXs l s = { s with x := (applyXs l s).x } := by
  induction l generalizing s with
  | nil => rfl
  | cons p rest ih =>
    have h := ih (s.setX p.1 p.2)
    simp only [setX_params, setX_pc, setX_f, setX_csr, setX_mem, setX_heapPtr, setX_ctl, setX_run, setX_draws, setX_answer,
      setX_agenda] at h
    exact h

/-- The floating-point registers of a Continue outcome change the floating-point register file only. -/
theorem applyFs_frame (l : List (RegIdx × Dword)) (s : State) : applyFs l s = { s with f := (applyFs l s).f } := by
  induction l generalizing s with
  | nil => rfl
  | cons p rest ih => exact (ih (s.setF p.1 p.2)).trans rfl

/-- What an `ECALL` can do with an outcome. -/
theorem applyEnv_cases (o : EnvOutcome) (s : State) :
    (∃ xs fs l, o = .continues xs fs l ∧ (envAccesses l s).2 = none ∧
      applyEnv o s = complete (applyFs fs (applyXs xs (envAccesses l s).1))) ∨
    (∃ xs fs l e, o = .continues xs fs l ∧ (envAccesses l s).2 = some e ∧
      applyEnv o s = haltException s.pc e.cause e.value (envAccesses l s).1) ∨
    (∃ code, o = .exit code ∧ applyEnv o s = haltExit code s) ∨
    (∃ cause value, o = .raise cause value ∧ applyEnv o s = haltException s.pc cause value s) := by
  cases o with
  | continues xs fs l =>
    simp only [applyEnv]
    rcases h : envAccesses l s with ⟨s1, _ | e⟩
    · exact .inl ⟨xs, fs, l, rfl, by rw [h], by rw [h]⟩
    · exact .inr (.inl ⟨xs, fs, l, e, rfl, by rw [h], by rw [h]⟩)
  | exit code => exact .inr (.inr (.inl ⟨code, rfl, rfl⟩))
  | raise cause value => exact .inr (.inr (.inr ⟨cause, value, rfl, rfl⟩))

end Sys2Proof.Machine
end

