-- ==== Sys2Proof/Laws/Exec.lean ====
section
/-! SUPPORT. Everything an instruction can do, said once: the eight kinds of effect of `exec`. -/

namespace Sys2Proof.Machine

/-- The effects an instruction can have on a state. -/
inductive InstrEffect (s : State) : State → Prop where
  /-- One register is written (or none, register 0), `pc` advances. -/
  | wrote (rd : RegIdx) (v : Word) : InstrEffect s (complete (s.setX rd v))
  /-- One register is written and `pc` set. -/
  | jumped (rd : RegIdx) (v target : Word) : InstrEffect s (completeAt target (s.setX rd v))
  /-- Bytes are stored. -/
  | stored (ea : Word) (w : Width) (v : Dword) (m : State) (h : memWrite ea w v s = .ok m) : InstrEffect s (complete m)
  /-- A failed access is raised. -/
  | raised (e : AccessFault) : InstrEffect s (raiseAccess e s)
  /-- The environment's outcome is applied. -/
  | environment (o : EnvOutcome) : InstrEffect s (applyEnv o s)
  /-- The instruction completes and the core pauses. -/
  | paused : InstrEffect s (halt .breakpoint (complete s))
  /-- The return from a trap. -/
  | returned : InstrEffect s (completeAt (csrGet .uepc s) (restoreStatus s))
  /-- A CSR and a register are written. -/
  | wroteCsr (rd : RegIdx) (n : CsrNum) (v u : Word) : InstrEffect s (complete ((csrWrite n v s).setX rd u))

theorem effect_of_writeResult {rd : RegIdx} {v : Word} {s t : State} (h : writeResult rd v s = .next t) : InstrEffect s t := by
  cases h
  exact .wrote rd v

theorem effect_of_branchIf {b : Bool} {off : BitVec 13} {s t : State} (h : branchIf b off s = .next t) : InstrEffect s t := by
  cases h
  cases b
  · exact .wrote 0#5 0#32
  · exact .jumped 0#5 0#32 (s.pc + immB off)

theorem effect_of_loadTo {rd : RegIdx} {ea : Word} {w : Width} {g : Dword → Word} {s t : State}
    (h : loadTo rd ea w g s = .next t) : InstrEffect s t := by
  unfold loadTo at h
  split at h
  · exact effect_of_writeResult h
  · cases h
    exact .raised _

theorem effect_of_storeAt {ea : Word} {w : Width} {v : Word} {s t : State} (h : storeAt ea w v s = .next t) :
    InstrEffect s t := by
  unfold storeAt at h
  split at h
  · cases h
    exact .stored _ _ _ _ ‹_›
  · cases h
    exact .raised _

theorem effect_of_csrUpdate {rd : RegIdx} {n : CsrNum} {g : Word → Option Word} {s t : State}
    (h : csrUpdate rd n g s = .next t) : InstrEffect s t := by
  unfold csrUpdate at h
  simp only at h
  split at h
  · cases h
    exact .wroteCsr rd n _ _
  · exact effect_of_writeResult h

/-- Every next state of an instruction is one of the eight effects. -/
theorem exec_effect {i : Instr} {s t : State} (h : exec i s = .next t) : InstrEffect s t := by
  cases i with
  | jal rd off => cases h; exact .jumped _ _ _
  | jalr rd rs1 imm => cases h; exact .jumped _ _ _
  | beq | bne | blt | bge | bltu | bgeu => exact effect_of_branchIf h
  | lb | lh | lw | lbu | lhu => exact effect_of_loadTo h
  | sb | sh | sw => exact effect_of_storeAt h
  | fence | fenceI | wfi => cases h; exact .wrote 0#5 0#32
  | ecall => cases h; exact .environment _
  | ebreak => cases h; exact .paused
  | uret => cases h; exact .returned
  | csrrw rd n r => unfold exec execCsrrw at h; exact effect_of_csrUpdate h
  | csrrs rd n r => unfold exec execCsrrs at h; exact effect_of_csrUpdate h
  | csrrc rd n r => unfold exec execCsrrc at h; exact effect_of_csrUpdate h
  | csrrwi rd n r => unfold exec execCsrrwi at h; exact effect_of_csrUpdate h
  | csrrsi rd n r => unfold exec execCsrrsi at h; exact effect_of_csrUpdate h
  | csrrci rd n r => unfold exec execCsrrci at h; exact effect_of_csrUpdate h
  | _ => exact effect_of_writeResult h

end Sys2Proof.Machine
end

