-- ==== Sys2Proof/Laws/PerInstr.lean ====
section
/-! SUPPORT. The per-instruction family FixedBits: the word an instruction encodes to selects the row of the opcode map that has the
instruction's mnemonic (30_encoding.md R133). -/

namespace Sys2Proof.Laws.FixedBits

/-- The encoding of `i` has the fixed bits of its own row of the opcode map (R133). -/
def Statement (i : Instr) : Prop := ∃ r ∈ opcodeMap, r.mnemonic = i.mnemonic ∧ r.selects (encode i) = true

theorem lui (rd : RegIdx) (imm : BitVec 20) : Statement (.lui rd imm) :=
  ⟨⟨"LUI", 0x00000037#32, 0x0000007F#32⟩, by decide, rfl, by
    simp only [OpcodeRow.selects, encode, and_opcodeMask, opcodeOf_encU]
    rfl⟩

theorem auipc (rd : RegIdx) (imm : BitVec 20) : Statement (.auipc rd imm) :=
  ⟨⟨"AUIPC", 0x00000017#32, 0x0000007F#32⟩, by decide, rfl, by
    simp only [OpcodeRow.selects, encode, and_opcodeMask, opcodeOf_encU]
    rfl⟩

theorem jal (rd : RegIdx) (offset : BitVec 21) : Statement (.jal rd offset) :=
  ⟨⟨"JAL", 0x0000006F#32, 0x0000007F#32⟩, by decide, rfl, by
    simp only [OpcodeRow.selects, encode, and_opcodeMask, opcodeOf_encJ]
    rfl⟩

theorem jalr (rd rs1 : RegIdx) (imm : BitVec 12) : Statement (.jalr rd rs1 imm) :=
  ⟨⟨"JALR", 0x00000067#32, 0x0000707F#32⟩, by decide, rfl, by
    simp only [OpcodeRow.selects, encode, and_funct3Mask, funct3Of_encI, opcodeOf_encI]
    rfl⟩

theorem beq (rs1 rs2 : RegIdx) (offset : BitVec 13) : Statement (.beq rs1 rs2 offset) :=
  ⟨⟨"BEQ", 0x00000063#32, 0x0000707F#32⟩, by decide, rfl, by
    simp only [OpcodeRow.selects, encode, and_funct3Mask, funct3Of_encB, opcodeOf_encB]
    rfl⟩

theorem bne (rs1 rs2 : RegIdx) (offset : BitVec 13) : Statement (.bne rs1 rs2 offset) :=
  ⟨⟨"BNE", 0x00001063#32, 0x0000707F#32⟩, by decide, rfl, by
    simp only [OpcodeRow.selects, encode, and_funct3Mask, funct3Of_encB, opcodeOf_encB]
    rfl⟩

theorem blt (rs1 rs2 : RegIdx) (offset : BitVec 13) : Statement (.blt rs1 rs2 offset) :=
  ⟨⟨"BLT", 0x00004063#32, 0x0000707F#32⟩, by decide, rfl, by
    simp only [OpcodeRow.selects, encode, and_funct3Mask, funct3Of_encB, opcodeOf_encB]
    rfl⟩

theorem bge (rs1 rs2 : RegIdx) (offset : BitVec 13) : Statement (.bge rs1 rs2 offset) :=
  ⟨⟨"BGE", 0x00005063#32, 0x0000707F#32⟩, by decide, rfl, by
    simp only [OpcodeRow.selects, encode, and_funct3Mask, funct3Of_encB, opcodeOf_encB]
    rfl⟩

theorem bltu (rs1 rs2 : RegIdx) (offset : BitVec 13) : Statement (.bltu rs1 rs2 offset) :=
  ⟨⟨"BLTU", 0x00006063#32, 0x0000707F#32⟩, by decide, rfl, by
    simp only [OpcodeRow.selects, encode, and_funct3Mask, funct3Of_encB, opcodeOf_encB]
    rfl⟩

theorem bgeu (rs1 rs2 : RegIdx) (offset : BitVec 13) : Statement (.bgeu rs1 rs2 offset) :=
  ⟨⟨"BGEU", 0x00007063#32, 0x0000707F#32⟩, by decide, rfl, by
    simp only [OpcodeRow.selects, encode, and_funct3Mask, funct3Of_encB, opcodeOf_encB]
    rfl⟩

theorem lb (rd rs1 : RegIdx) (imm : BitVec 12) : Statement (.lb rd rs1 imm) :=
  ⟨⟨"LB", 0x00000003#32, 0x0000707F#32⟩, by decide, rfl, by
    simp only [OpcodeRow.selects, encode, and_funct3Mask, funct3Of_encI, opcodeOf_encI]
    rfl⟩

theorem lh (rd rs1 : RegIdx) (imm : BitVec 12) : Statement (.lh rd rs1 imm) :=
  ⟨⟨"LH", 0x00001003#32, 0x0000707F#32⟩, by decide, rfl, by
    simp only [OpcodeRow.selects, encode, and_funct3Mask, funct3Of_encI, opcodeOf_encI]
    rfl⟩

theorem lw (rd rs1 : RegIdx) (imm : BitVec 12) : Statement (.lw rd rs1 imm) :=
  ⟨⟨"LW", 0x00002003#32, 0x0000707F#32⟩, by decide, rfl, by
    simp only [OpcodeRow.selects, encode, and_funct3Mask, funct3Of_encI, opcodeOf_encI]
    rfl⟩

theorem lbu (rd rs1 : RegIdx) (imm : BitVec 12) : Statement (.lbu rd rs1 imm) :=
  ⟨⟨"LBU", 0x00004003#32, 0x0000707F#32⟩, by decide, rfl, by
    simp only [OpcodeRow.selects, encode, and_funct3Mask, funct3Of_encI, opcodeOf_encI]
    rfl⟩

theorem lhu (rd rs1 : RegIdx) (imm : BitVec 12) : Statement (.lhu rd rs1 imm) :=
  ⟨⟨"LHU", 0x00005003#32, 0x0000707F#32⟩, by decide, rfl, by
    simp only [OpcodeRow.selects, encode, and_funct3Mask, funct3Of_encI, opcodeOf_encI]
    rfl⟩

theorem sb (rs2 rs1 : RegIdx) (imm : BitVec 12) : Statement (.sb rs2 rs1 imm) :=
  ⟨⟨"SB", 0x00000023#32, 0x0000707F#32⟩, by decide, rfl, by
    simp only [OpcodeRow.selects, encode, and_funct3Mask, funct3Of_encS, opcodeOf_encS]
    rfl⟩

theorem sh (rs2 rs1 : RegIdx) (imm : BitVec 12) : Statement (.sh rs2 rs1 imm) :=
  ⟨⟨"SH", 0x00001023#32, 0x0000707F#32⟩, by decide, rfl, by
    simp only [OpcodeRow.selects, encode, and_funct3Mask, funct3Of_encS, opcodeOf_encS]
    rfl⟩

theorem sw (rs2 rs1 : RegIdx) (imm : BitVec 12) : Statement (.sw rs2 rs1 imm) :=
  ⟨⟨"SW", 0x00002023#32, 0x0000707F#32⟩, by decide, rfl, by
    simp only [OpcodeRow.selects, encode, and_funct3Mask, funct3Of_encS, opcodeOf_encS]
    rfl⟩

theorem addi (rd rs1 : RegIdx) (imm : BitVec 12) : Statement (.addi rd rs1 imm) :=
  ⟨⟨"ADDI", 0x00000013#32, 0x0000707F#32⟩, by decide, rfl, by
    simp only [OpcodeRow.selects, encode, and_funct3Mask, funct3Of_encI, opcodeOf_encI]
    rfl⟩

theorem slti (rd rs1 : RegIdx) (imm : BitVec 12) : Statement (.slti rd rs1 imm) :=
  ⟨⟨"SLTI", 0x00002013#32, 0x0000707F#32⟩, by decide, rfl, by
    simp only [OpcodeRow.selects, encode, and_funct3Mask, funct3Of_encI, opcodeOf_encI]
    rfl⟩

theorem sltiu (rd rs1 : RegIdx) (imm : BitVec 12) : Statement (.sltiu rd rs1 imm) :=
  ⟨⟨"SLTIU", 0x00003013#32, 0x0000707F#32⟩, by decide, rfl, by
    simp only [OpcodeRow.selects, encode, and_funct3Mask, funct3Of_encI, opcodeOf_encI]
    rfl⟩

theorem xori (rd rs1 : RegIdx) (imm : BitVec 12) : Statement (.xori rd rs1 imm) :=
  ⟨⟨"XORI", 0x00004013#32, 0x0000707F#32⟩, by decide, rfl, by
    simp only [OpcodeRow.selects, encode, and_funct3Mask, funct3Of_encI, opcodeOf_encI]
    rfl⟩

theorem ori (rd rs1 : RegIdx) (imm : BitVec 12) : Statement (.ori rd rs1 imm) :=
  ⟨⟨"ORI", 0x00006013#32, 0x0000707F#32⟩, by decide, rfl, by
    simp only [OpcodeRow.selects, encode, and_funct3Mask, funct3Of_encI, opcodeOf_encI]
    rfl⟩

theorem andi (rd rs1 : RegIdx) (imm : BitVec 12) : Statement (.andi rd rs1 imm) :=
  ⟨⟨"ANDI", 0x00007013#32, 0x0000707F#32⟩, by decide, rfl, by
    simp only [OpcodeRow.selects, encode, and_funct3Mask, funct3Of_encI, opcodeOf_encI]
    rfl⟩

theorem slli (rd rs1 : RegIdx) (shamt : BitVec 5) : Statement (.slli rd rs1 shamt) :=
  ⟨⟨"SLLI", 0x00001013#32, 0xFE00707F#32⟩, by decide, rfl, by
    simp only [OpcodeRow.selects, encode, and_funct7Mask, funct7Of_encR, funct3Of_encR, opcodeOf_encR]
    rfl⟩

theorem srli (rd rs1 : RegIdx) (shamt : BitVec 5) : Statement (.srli rd rs1 shamt) :=
  ⟨⟨"SRLI", 0x00005013#32, 0xFE00707F#32⟩, by decide, rfl, by
    simp only [OpcodeRow.selects, encode, and_funct7Mask, funct7Of_encR, funct3Of_encR, opcodeOf_encR]
    rfl⟩

theorem srai (rd rs1 : RegIdx) (shamt : BitVec 5) : Statement (.srai rd rs1 shamt) :=
  ⟨⟨"SRAI", 0x40005013#32, 0xFE00707F#32⟩, by decide, rfl, by
    simp only [OpcodeRow.selects, encode, and_funct7Mask, funct7Of_encR, funct3Of_encR, opcodeOf_encR]
    rfl⟩

theorem add (rd rs1 rs2 : RegIdx) : Statement (.add rd rs1 rs2) :=
  ⟨⟨"ADD", 0x00000033#32, 0xFE00707F#32⟩, by decide, rfl, by
    simp only [OpcodeRow.selects, encode, and_funct7Mask, funct7Of_encR, funct3Of_encR, opcodeOf_encR]
    rfl⟩

theorem sub (rd rs1 rs2 : RegIdx) : Statement (.sub rd rs1 rs2) :=
  ⟨⟨"SUB", 0x40000033#32, 0xFE00707F#32⟩, by decide, rfl, by
    simp only [OpcodeRow.selects, encode, and_funct7Mask, funct7Of_encR, funct3Of_encR, opcodeOf_encR]
    rfl⟩

theorem sll (rd rs1 rs2 : RegIdx) : Statement (.sll rd rs1 rs2) :=
  ⟨⟨"SLL", 0x00001033#32, 0xFE00707F#32⟩, by decide, rfl, by
    simp only [OpcodeRow.selects, encode, and_funct7Mask, funct7Of_encR, funct3Of_encR, opcodeOf_encR]
    rfl⟩

theorem slt (rd rs1 rs2 : RegIdx) : Statement (.slt rd rs1 rs2) :=
  ⟨⟨"SLT", 0x00002033#32, 0xFE00707F#32⟩, by decide, rfl, by
    simp only [OpcodeRow.selects, encode, and_funct7Mask, funct7Of_encR, funct3Of_encR, opcodeOf_encR]
    rfl⟩

theorem sltu (rd rs1 rs2 : RegIdx) : Statement (.sltu rd rs1 rs2) :=
  ⟨⟨"SLTU", 0x00003033#32, 0xFE00707F#32⟩, by decide, rfl, by
    simp only [OpcodeRow.selects, encode, and_funct7Mask, funct7Of_encR, funct3Of_encR, opcodeOf_encR]
    rfl⟩

theorem xor (rd rs1 rs2 : RegIdx) : Statement (.xor rd rs1 rs2) :=
  ⟨⟨"XOR", 0x00004033#32, 0xFE00707F#32⟩, by decide, rfl, by
    simp only [OpcodeRow.selects, encode, and_funct7Mask, funct7Of_encR, funct3Of_encR, opcodeOf_encR]
    rfl⟩

theorem srl (rd rs1 rs2 : RegIdx) : Statement (.srl rd rs1 rs2) :=
  ⟨⟨"SRL", 0x00005033#32, 0xFE00707F#32⟩, by decide, rfl, by
    simp only [OpcodeRow.selects, encode, and_funct7Mask, funct7Of_encR, funct3Of_encR, opcodeOf_encR]
    rfl⟩

theorem sra (rd rs1 rs2 : RegIdx) : Statement (.sra rd rs1 rs2) :=
  ⟨⟨"SRA", 0x40005033#32, 0xFE00707F#32⟩, by decide, rfl, by
    simp only [OpcodeRow.selects, encode, and_funct7Mask, funct7Of_encR, funct3Of_encR, opcodeOf_encR]
    rfl⟩

theorem or (rd rs1 rs2 : RegIdx) : Statement (.or rd rs1 rs2) :=
  ⟨⟨"OR", 0x00006033#32, 0xFE00707F#32⟩, by decide, rfl, by
    simp only [OpcodeRow.selects, encode, and_funct7Mask, funct7Of_encR, funct3Of_encR, opcodeOf_encR]
    rfl⟩

theorem and (rd rs1 rs2 : RegIdx) : Statement (.and rd rs1 rs2) :=
  ⟨⟨"AND", 0x00007033#32, 0xFE00707F#32⟩, by decide, rfl, by
    simp only [OpcodeRow.selects, encode, and_funct7Mask, funct7Of_encR, funct3Of_encR, opcodeOf_encR]
    rfl⟩

theorem mul (rd rs1 rs2 : RegIdx) : Statement (.mul rd rs1 rs2) :=
  ⟨⟨"MUL", 0x02000033#32, 0xFE00707F#32⟩, by decide, rfl, by
    simp only [OpcodeRow.selects, encode, and_funct7Mask, funct7Of_encR, funct3Of_encR, opcodeOf_encR]
    rfl⟩

theorem mulh (rd rs1 rs2 : RegIdx) : Statement (.mulh rd rs1 rs2) :=
  ⟨⟨"MULH", 0x02001033#32, 0xFE00707F#32⟩, by decide, rfl, by
    simp only [OpcodeRow.selects, encode, and_funct7Mask, funct7Of_encR, funct3Of_encR, opcodeOf_encR]
    rfl⟩

theorem mulhsu (rd rs1 rs2 : RegIdx) : Statement (.mulhsu rd rs1 rs2) :=
  ⟨⟨"MULHSU", 0x02002033#32, 0xFE00707F#32⟩, by decide, rfl, by
    simp only [OpcodeRow.selects, encode, and_funct7Mask, funct7Of_encR, funct3Of_encR, opcodeOf_encR]
    rfl⟩

theorem mulhu (rd rs1 rs2 : RegIdx) : Statement (.mulhu rd rs1 rs2) :=
  ⟨⟨"MULHU", 0x02003033#32, 0xFE00707F#32⟩, by decide, rfl, by
    simp only [OpcodeRow.selects, encode, and_funct7Mask, funct7Of_encR, funct3Of_encR, opcodeOf_encR]
    rfl⟩

theorem div (rd rs1 rs2 : RegIdx) : Statement (.div rd rs1 rs2) :=
  ⟨⟨"DIV", 0x02004033#32, 0xFE00707F#32⟩, by decide, rfl, by
    simp only [OpcodeRow.selects, encode, and_funct7Mask, funct7Of_encR, funct3Of_encR, opcodeOf_encR]
    rfl⟩

theorem divu (rd rs1 rs2 : RegIdx) : Statement (.divu rd rs1 rs2) :=
  ⟨⟨"DIVU", 0x02005033#32, 0xFE00707F#32⟩, by decide, rfl, by
    simp only [OpcodeRow.selects, encode, and_funct7Mask, funct7Of_encR, funct3Of_encR, opcodeOf_encR]
    rfl⟩

theorem rem (rd rs1 rs2 : RegIdx) : Statement (.rem rd rs1 rs2) :=
  ⟨⟨"REM", 0x02006033#32, 0xFE00707F#32⟩, by decide, rfl, by
    simp only [OpcodeRow.selects, encode, and_funct7Mask, funct7Of_encR, funct3Of_encR, opcodeOf_encR]
    rfl⟩

theorem remu (rd rs1 rs2 : RegIdx) : Statement (.remu rd rs1 rs2) :=
  ⟨⟨"REMU", 0x02007033#32, 0xFE00707F#32⟩, by decide, rfl, by
    simp only [OpcodeRow.selects, encode, and_funct7Mask, funct7Of_encR, funct3Of_encR, opcodeOf_encR]
    rfl⟩

theorem fence (fm pred succ : BitVec 4) (rs1 rd : RegIdx) : Statement (.fence fm pred succ rs1 rd) :=
  ⟨⟨"FENCE", 0x0000000F#32, 0x0000707F#32⟩, by decide, rfl, by
    simp only [OpcodeRow.selects, encode, and_funct3Mask, funct3Of_encI, opcodeOf_encI]
    rfl⟩

theorem fenceI (imm : BitVec 12) (rs1 rd : RegIdx) : Statement (.fenceI imm rs1 rd) :=
  ⟨⟨"FENCE.I", 0x0000100F#32, 0x0000707F#32⟩, by decide, rfl, by
    simp only [OpcodeRow.selects, encode, and_funct3Mask, funct3Of_encI, opcodeOf_encI]
    rfl⟩

theorem ecall : Statement .ecall :=
  ⟨⟨"ECALL", 0x00000073#32, 0xFFFFFFFF#32⟩, by decide, rfl, by decide⟩

theorem ebreak : Statement .ebreak :=
  ⟨⟨"EBREAK", 0x00100073#32, 0xFFFFFFFF#32⟩, by decide, rfl, by decide⟩

theorem uret : Statement .uret :=
  ⟨⟨"URET", 0x00200073#32, 0xFFFFFFFF#32⟩, by decide, rfl, by decide⟩

theorem wfi : Statement .wfi :=
  ⟨⟨"WFI", 0x10500073#32, 0xFFFFFFFF#32⟩, by decide, rfl, by decide⟩

theorem csrrw (rd : RegIdx) (csr : CsrNum) (rs1 : RegIdx) : Statement (.csrrw rd csr rs1) :=
  ⟨⟨"CSRRW", 0x00001073#32, 0x0000707F#32⟩, by decide, rfl, by
    simp only [OpcodeRow.selects, encode, and_funct3Mask, funct3Of_encI, opcodeOf_encI]
    rfl⟩

theorem csrrs (rd : RegIdx) (csr : CsrNum) (rs1 : RegIdx) : Statement (.csrrs rd csr rs1) :=
  ⟨⟨"CSRRS", 0x00002073#32, 0x0000707F#32⟩, by decide, rfl, by
    simp only [OpcodeRow.selects, encode, and_funct3Mask, funct3Of_encI, opcodeOf_encI]
    rfl⟩

theorem csrrc (rd : RegIdx) (csr : CsrNum) (rs1 : RegIdx) : Statement (.csrrc rd csr rs1) :=
  ⟨⟨"CSRRC", 0x00003073#32, 0x0000707F#32⟩, by decide, rfl, by
    simp only [OpcodeRow.selects, encode, and_funct3Mask, funct3Of_encI, opcodeOf_encI]
    rfl⟩

theorem csrrwi (rd : RegIdx) (csr : CsrNum) (uimm : BitVec 5) : Statement (.csrrwi rd csr uimm) :=
  ⟨⟨"CSRRWI", 0x00005073#32, 0x0000707F#32⟩, by decide, rfl, by
    simp only [OpcodeRow.selects, encode, and_funct3Mask, funct3Of_encI, opcodeOf_encI]
    rfl⟩

theorem csrrsi (rd : RegIdx) (csr : CsrNum) (uimm : BitVec 5) : Statement (.csrrsi rd csr uimm) :=
  ⟨⟨"CSRRSI", 0x00006073#32, 0x0000707F#32⟩, by decide, rfl, by
    simp only [OpcodeRow.selects, encode, and_funct3Mask, funct3Of_encI, opcodeOf_encI]
    rfl⟩

theorem csrrci (rd : RegIdx) (csr : CsrNum) (uimm : BitVec 5) : Statement (.csrrci rd csr uimm) :=
  ⟨⟨"CSRRCI", 0x00007073#32, 0x0000707F#32⟩, by decide, rfl, by
    simp only [OpcodeRow.selects, encode, and_funct3Mask, funct3Of_encI, opcodeOf_encI]
    rfl⟩

end Sys2Proof.Laws.FixedBits
end

