-- ==== Sys2Proof/Laws/Step.lean ====
section
/-! SUPPORT. Everything a step can do, said once: the end of a step, the diverted and the executing step, the ports. -/

namespace Sys2Proof.Machine

/-- The end of a step (R313). -/
theorem finishStep_cases (s : State) :
    (s.run.runState ≠ .running ∧ finishStep s = s) ∨
    (s.run.runState = .running ∧ s.pc ∈ s.run.breakpoints ∧ finishStep s = halt .breakpoint (countdown s)) ∨
    (s.run.runState = .running ∧ s.pc ∉ s.run.breakpoints ∧ s.run.stepsLeft = some 1 ∧
      finishStep s = halt .maxSteps (countdown s)) ∨
    (s.run.runState = .running ∧ s.pc ∉ s.run.breakpoints ∧ s.run.stepsLeft ≠ some 1 ∧ finishStep s = countdown s) := by
  unfold finishStep
  by_cases hr : s.run.runState = .running
  · simp only [hr, if_true]
    by_cases hb : s.pc ∈ s.run.breakpoints
    · exact .inr (.inl ⟨trivial, hb, if_pos hb⟩)
    · have hb' : ¬ (countdown s).pc ∈ (countdown s).run.breakpoints := hb
      rw [if_neg hb']
      by_cases h1 : s.run.stepsLeft = some 1
      · refine .inr (.inr (.inl ⟨trivial, hb, h1, if_pos ?_⟩))
        simp [h1]
      · refine .inr (.inr (.inr ⟨trivial, hb, h1, if_neg ?_⟩))
        intro h0
        apply h1
        simp only [countdown_stepsLeft, Option.map_eq_some_iff] at h0
        obtain ⟨a, ha, h0⟩ := h0
        rw [ha]
        exact congrArg some (by omega)
  · exact .inl ⟨hr, if_neg hr⟩

/-- The next states of a word's execution (S3 and S4). -/
theorem execWord_next {w : Word} {s t : State} (h : execWord exec w s = .next t) :
    (decode w = .null ∧ t = halt .cliffTermination s) ∨
    (decode w = .illegal ∧ t = raise causeIllegalInstruction 0#32 s) ∨
    (∃ i, decode w = .instr i ∧ exec i s = .next t) := by
  unfold execWord at h
  split at h
  · cases h; exact .inl ⟨‹_›, rfl⟩
  · cases h
  · cases h; exact .inr (.inl ⟨‹_›, rfl⟩)
  · exact .inr (.inr ⟨_, ‹_›, h⟩)

/-- The next states of a core that takes its step. -/
theorem runCore_next {s t : State} (h : runCore exec s = .next t) :
    (s.run.stopReq = true ∧ t = halt .stop s) ∨
    (s.run.stopReq = false ∧ s.run.pauseReq = true ∧ t = halt .pause s) ∨
    (s.run.stopReq = false ∧ s.run.pauseReq = false ∧
      ((∃ e, fetch s.pc s = .error e ∧ t = haltException s.pc e.cause e.value s) ∨
       (∃ w, fetch s.pc s = .ok w ∧
        ((∃ s', check s = .violation s' ∧ t = s') ∨
         (∃ e s' u, check s = .event e s' ∧ enterTrap e s' = .next u ∧ t = finishStep u) ∨
         (∃ s' u, check s = .nothing s' ∧ execWord exec w s' = .next u ∧ t = finishStep u))))) := by
  unfold runCore at h
  cases hs : s.run.stopReq
  · simp only [hs, Bool.false_eq_true, if_false] at h
    cases hp : s.run.pauseReq
    · simp only [hp, Bool.false_eq_true, if_false] at h
      refine .inr (.inr ⟨rfl, rfl, ?_⟩)
      cases hf : fetch s.pc s with
      | error e =>
        rw [hf] at h
        cases h
        exact .inl ⟨e, rfl, rfl⟩
      | ok w =>
        rw [hf] at h
        refine .inr ⟨w, rfl, ?_⟩
        unfold afterFetch at h
        cases hc : check s with
        | violation s' =>
          simp only [hc] at h
          cases h
          exact .inl ⟨_, rfl, rfl⟩
        | event e s' =>
          simp only [hc] at h
          cases hu : enterTrap e s' with
          | next u =>
            rw [hu] at h
            cases h
            exact .inr (.inl ⟨e, s', u, rfl, hu, rfl⟩)
          | fault => rw [hu] at h; cases h
          | refused => rw [hu] at h; cases h
        | nothing s' =>
          simp only [hc] at h
          cases hu : execWord exec w s' with
          | next u =>
            rw [hu] at h
            cases h
            exact .inr (.inr ⟨s', u, rfl, hu, rfl⟩)
          | fault => rw [hu] at h; cases h
          | refused => rw [hu] at h; cases h
    · simp only [hp, if_true] at h
      cases h
      exact .inr (.inl ⟨rfl, rfl, rfl⟩)
  · simp only [hs, if_true] at h
    cases h
    exact .inl ⟨rfl, rfl⟩

/-- The next states of an idle core. -/
theorem idleStep_next {s t : State} (h : idleStep s = .next t) : t = s := by
  unfold idleStep at h
  split at h
  · cases h
  · split at h
    · cases h
    · cases h; rfl

/-- The next states of the machine's step. -/
theorem step_next {s t : State} (h : step s = .next t) :
    (s.agenda = [] ∧ s.run.runState = .running ∧ runCore exec s = .next t) ∨
    (s.agenda = [] ∧ s.run.runState ≠ .running ∧ t = s) ∨
    (∃ op rest, s.agenda = op :: rest ∧ applyPort exec op { s with agenda := rest } = .next t) := by
  unfold step stepWith at h
  split at h
  · rename_i ha
    unfold isRunning at h
    by_cases hr : s.run.runState = .running
    · simp only [hr, beq_self_eq_true, if_true] at h
      exact .inl ⟨ha, hr, h⟩
    · rw [if_neg (by simpa using hr)] at h
      exact .inr (.inl ⟨ha, hr, idleStep_next h⟩)
  · exact .inr (.inr ⟨_, _, ‹_›, h⟩)

/-- A core about to step runs `runCore`. -/
theorem step_of_running {s : State} (ha : s.agenda = []) (hr : s.run.runState = .running) : step s = runCore exec s := by
  unfold step stepWith isRunning
  simp [ha, hr]

/-- A core about to step with no request fetches. -/
theorem runCore_of_ok {s : State} {w : Word} (h1 : s.run.stopReq = false) (h2 : s.run.pauseReq = false)
    (hf : fetch s.pc s = .ok w) : runCore exec s = afterFetch exec w s := by
  unfold runCore
  simp [h1, h2, hf]

end Sys2Proof.Machine
end

