-- ==== Sys2Proof/Laws/Ports.lean ====
section
/-! SUPPORT. Everything a port operation can do, said once, and the fields of a core after a reset. -/

namespace Sys2Proof.Machine

/-! ## Answers -/

@[simp] theorem verdict_true : verdict true = .accepted := rfl
@[simp] theorem verdict_false : verdict false = .rejected := rfl
theorem replied_eq (a : Answer) (s : State) : replied a s = .next { s with answer := a } := rfl
theorem answered_eq (r : Bool × State) : answered r = .next { r.2 with answer := verdict r.1 } := rfl

/-! ## Queries (R327) -/

theorem isRunning_iff (s : State) : isRunning s = true ↔ s.run.runState = .running := by simp [isRunning]

theorem hostQuery_of_running {s : State} (h : s.run.runState = .running) (q : Query) : hostQuery q s = .rejected :=
  if_pos ((isRunning_iff s).2 h)

theorem hostQuery_of_idle {s : State} (h : s.run.runState ≠ .running) (q : Query) : hostQuery q s = queryValue q s :=
  if_neg fun hr => h ((isRunning_iff s).1 hr)

/-! ## The state after a reset (R400) -/

/-- A reset keeps the parameters, the agenda and the breakpoints, and leaves the rest at the reset values of R61. -/
theorem hostReset_fields (s : State) :
    (hostReset s).params = s.params ∧ (hostReset s).agenda = s.agenda ∧
    (hostReset s).x = resetRegisters s.params.memcfg ∧ (hostReset s).pc = s.params.entryPc ∧
    (hostReset s).f = Vector.replicate 32 0#64 ∧ (hostReset s).csr = resetCsrs ∧ (hostReset s).mem = [] ∧
    (hostReset s).heapPtr = s.params.memcfg.heapBase ∧ (hostReset s).ctl = controllerReset s.ctl ∧
    (hostReset s).run.runState = .stopped ∧ (hostReset s).run.stopReq = false ∧ (hostReset s).run.pauseReq = false ∧
    (hostReset s).run.breakpoints = s.run.breakpoints := by
  unfold hostReset
  split <;> exact ⟨rfl, rfl, rfl, rfl, rfl, rfl, rfl, rfl, rfl, rfl, rfl, rfl, rfl⟩

/-! ## Every port operation -/

/-- The changes a port operation can make to a state, the answer apart. -/
inductive PortChange (s : State) : PortOp → State → Prop where
  /-- Rejected, or a query. -/
  | nothing (op : PortOp) : PortChange s op s
  | external (v : Word) (h : s.ctl.extPending = false) :
      PortChange s (.registerExternal v) { s with ctl := { s.ctl with extValue := v, extPending := true } }
  | timer (v : Word) (h : s.ctl.tmrPending = false) :
      PortChange s (.registerTimer v) { s with ctl := { s.ctl with tmrValue := v, tmrPending := true } }
  /-- `start` and `step()`. -/
  | started (op : PortOp) (n : Int) (l : List Word) (h : s.run.runState = .stopped ∨ s.run.runState = .paused) :
      PortChange s op (startRun n l s).2
  /-- `pause()` and `stop()`. -/
  | requested (op : PortOp) (p q : Bool) (h : s.run.runState = .running) :
      PortChange s op { s with run := { s.run with pauseReq := p, stopReq := q } }
  | reset : PortChange s .reset (hostReset s)
  | loaded (image : List (Word × Byte)) (entry : Word) (h : s.run.runState ≠ .running)
      (hi : imageInSegments s.params.memcfg image = true) : PortChange s (.load image entry) (loadImage image entry s)
  | configured (c : MemConfig) (h : s.run.runState ≠ .running) (hc : wfConfig c = true) :
      PortChange s (.setMemoryConfiguration c) (switchConfiguration c s)
  | setX (i : RegIdx) (v : Word) (h : s.run.runState ≠ .running) : PortChange s (.editX i v) (s.setX i v)
  | setF (i : RegIdx) (v : Dword) (h : s.run.runState ≠ .running) : PortChange s (.editF i v) (s.setF i v)
  | setPc (v : Word) (h : s.run.runState ≠ .running) : PortChange s (.editPc v) (s.setPc v)
  | setCsr (n : CsrNum) (v : Word) (h : s.run.runState ≠ .running) : PortChange s (.editCsr n v) (csrWrite n v s)
  | setMem (a : Word) (w : Width) (v : Dword) (m : State) (h : s.run.runState ≠ .running) (hm : memWrite a w v s = .ok m) :
      PortChange s (.editMem a w v) m

theorem edit_cases (g : State → State) (s : State) :
    (s.run.runState = .running ∧ edit g s = (false, s)) ∨ (s.run.runState ≠ .running ∧ edit g s = (true, g s)) := by
  by_cases h : s.run.runState = .running <;> simp [edit, isRunning, h]

/-- What an accepted or a rejected operation of the host does, and where it is refused. -/
theorem applyPort_cases (op : PortOp) (s : State) :
    (op = .coreStep ∧ s.run.runState = .running ∧ applyPort exec op s = runCore exec s) ∨
    (op = .coreStep ∧ s.run.runState ≠ .running ∧ applyPort exec op s = .next s) ∨
    (∃ image entry, op = .load image entry ∧ s.run.runState ≠ .running ∧
      imageInSegments s.params.memcfg image = false ∧ applyPort exec op s = .refused .illFormedImage) ∨
    (∃ c, op = .setMemoryConfiguration c ∧ s.run.runState ≠ .running ∧ wfConfig c = false ∧
      applyPort exec op s = .refused .illFormedConfiguration) ∨
    (op ≠ .coreStep ∧ ∃ a u, PortChange s op u ∧ applyPort exec op s = .next { u with answer := a }) := by
  have change : ∀ {op : PortOp} {r : Bool × State}, op ≠ .coreStep → PortChange s op r.2 → applyPort exec op s = answered r →
      op ≠ .coreStep ∧ ∃ a u, PortChange s op u ∧ applyPort exec op s = .next { u with answer := a } :=
    fun hn h e => ⟨hn, _, _, h, e⟩
  have edited : ∀ {op : PortOp} {g : State → State}, op ≠ .coreStep →
      (s.run.runState ≠ .running → PortChange s op (g s)) → applyPort exec op s = answered (edit g s) →
      op ≠ .coreStep ∧ ∃ a u, PortChange s op u ∧ applyPort exec op s = .next { u with answer := a } := by
    intro op g hn h e
    rcases edit_cases g s with ⟨_, hg⟩ | ⟨hr, hg⟩ <;> rw [hg] at e
    · exact change hn (.nothing op) e
    · exact change hn (h hr) e
  cases op with
  | coreStep =>
    by_cases hr : s.run.runState = .running
    · exact .inl ⟨rfl, hr, by simp [applyPort, isRunning, hr]⟩
    · exact .inr (.inl ⟨rfl, hr, by simp [applyPort, isRunning, hr]⟩)
  | registerExternal v =>
    refine .inr (.inr (.inr (.inr (change (by simp) ?_ rfl))))
    cases h : s.ctl.extPending <;> simp only [registerExternal, h, if_true, Bool.false_eq_true, if_false]
    · exact .external v h
    · exact .nothing _
  | registerTimer v =>
    refine .inr (.inr (.inr (.inr (change (by simp) ?_ rfl))))
    cases h : s.ctl.tmrPending <;> simp only [registerTimer, h, if_true, Bool.false_eq_true, if_false]
    · exact .timer v h
    · exact .nothing _
  | start n l =>
    refine .inr (.inr (.inr (.inr (change (by simp) ?_ rfl))))
    by_cases h : s.run.runState = .stopped ∨ s.run.runState = .paused
    · exact .started _ n l h
    · simp only [startRun, if_neg h]
      exact .nothing _
  | stepOnce =>
    refine .inr (.inr (.inr (.inr (change (by simp) ?_ rfl))))
    by_cases h : s.run.runState = .stopped ∨ s.run.runState = .paused
    · exact .started _ 1 [] h
    · simp only [startRun, if_neg h]
      exact .nothing _
  | pause =>
    refine .inr (.inr (.inr (.inr (change (by simp) ?_ rfl))))
    by_cases h : s.run.runState = .running
    · simp only [requestPause, (isRunning_iff s).2 h, if_true]
      exact .requested _ _ _ h
    · simp only [requestPause, if_neg (mt (isRunning_iff s).1 h)]
      exact .nothing _
  | stop =>
    refine .inr (.inr (.inr (.inr (change (by simp) ?_ rfl))))
    by_cases h : s.run.runState = .running
    · simp only [requestStop, (isRunning_iff s).2 h, if_true]
      exact .requested _ _ _ h
    · simp only [requestStop, if_neg (mt (isRunning_iff s).1 h)]
      exact .nothing _
  | reset => exact .inr (.inr (.inr (.inr (change (r := (true, hostReset s)) (by simp) .reset rfl))))
  | load image entry =>
    by_cases h : s.run.runState = .running
    · refine .inr (.inr (.inr (.inr (change (r := (false, s)) (by simp) (.nothing _) ?_))))
      simp only [applyPort, (isRunning_iff s).2 h, if_true]
    · have hr := mt (isRunning_iff s).1 h
      cases hi : imageInSegments s.params.memcfg image
      · refine .inr (.inr (.inl ⟨image, entry, rfl, h, hi, ?_⟩))
        simp only [applyPort, if_neg hr, hi, Bool.false_eq_true, if_false]
      · refine .inr (.inr (.inr (.inr (change (r := (true, loadImage image entry s)) (by simp) (.loaded image entry h hi) ?_))))
        simp only [applyPort, if_neg hr, hi, if_true]
  | setMemoryConfiguration c =>
    by_cases h : s.run.runState = .running
    · refine .inr (.inr (.inr (.inr (change (r := (false, s)) (by simp) (.nothing _) ?_))))
      simp only [applyPort, (isRunning_iff s).2 h, if_true]
    · have hr := mt (isRunning_iff s).1 h
      cases hc : wfConfig c
      · refine .inr (.inr (.inr (.inl ⟨c, rfl, h, hc, ?_⟩)))
        simp only [applyPort, if_neg hr, hc, Bool.false_eq_true, if_false]
      · refine .inr (.inr (.inr (.inr (change (r := (true, switchConfiguration c s)) (by simp) (.configured c h hc) ?_))))
        simp only [applyPort, if_neg hr, hc, if_true]
  | query q => exact .inr (.inr (.inr (.inr ⟨by simp, _, _, .nothing _, rfl⟩)))
  | editX i v => exact .inr (.inr (.inr (.inr (edited (by simp) (.setX i v) rfl))))
  | editF i v => exact .inr (.inr (.inr (.inr (edited (by simp) (.setF i v) rfl))))
  | editPc v => exact .inr (.inr (.inr (.inr (edited (by simp) (.setPc v) rfl))))
  | editCsr n v => exact .inr (.inr (.inr (.inr (edited (by simp) (.setCsr n v) rfl))))
  | editMem a w v =>
    refine .inr (.inr (.inr (.inr (change (by simp) ?_ rfl))))
    by_cases h : s.run.runState = .running
    · simp only [editMemory, (isRunning_iff s).2 h, if_true]
      exact .nothing _
    · simp only [editMemory, if_neg (mt (isRunning_iff s).1 h)]
      split
      · exact .setMem a w v _ h ‹_›
      · exact .nothing _

/-- A step with an operation waiting performs it. -/
theorem step_of_port {s : State} {op : PortOp} {rest : List PortOp} (h : s.agenda = op :: rest) :
    step s = applyPort exec op { s with agenda := rest } := by
  unfold step stepWith
  rw [h]

/-- No port operation touches the agenda behind it. -/
theorem PortChange.agenda {s u : State} {op : PortOp} (h : PortChange s op u) : u.agenda = s.agenda := by
  cases h with
  | nothing => rfl
  | external => rfl
  | timer => rfl
  | started _ n l h => simp [startRun, h]
  | requested => rfl
  | reset => exact (hostReset_fields s).2.1
  | loaded image entry => exact (hostReset_fields s).2.1
  | configured c =>
    exact (hostReset_fields { s with params := { s.params with memcfg := c, entryPc := c.textBase } }).2.1
  | setX => simp
  | setF => simp
  | setPc => simp
  | setCsr => simp
  | setMem a w v m _ hm =>
    obtain ⟨-, rfl⟩ := memWrite_ok hm
    rfl

end Sys2Proof.Machine
end

