-- ==== Sys2Proof/Tests/Slice0.lean ====
section
/-! SUPPORT. Small tests. Expected values are taken from the worked examples of the rules of spec/ (each theorem names its rule), never from
the model. One step each. The last part shows, for every obligation with hypotheses, a state and operands that meet them. -/

namespace Sys2Proof.Tests

open Sys2Proof Sys2Proof.Machine

/-! ## Helpers -/

/-- A core RUNNING at `pc` after reset, with the word `v` there. -/
def running (pc v : Word) : State := placeWord v (State.reset.setPc pc)

/-- General registers set. -/
def withX (l : List (RegIdx × Word)) (s : State) : State := applyXs l s

/-- Bytes of memory set. -/
def withBytes (a : Nat) (bs : List Byte) (s : State) : State := { s with mem := s.mem.writeBytes a bs }

/-- One CSR written through the public path. -/
def withCsr (n : CsrNum) (v : Word) (s : State) : State := csrWrite n v s

/-- What a next state shows; none for a fault or a refusal. -/
def after {α : Type} (r : Result) (g : State → α) : Option α :=
  match r with
  | .next t => some (g t)
  | .fault _ => none
  | .refused _ => none

/-- The refusal of a step that is refused. -/
def refusalOf (r : Result) : Option Refusal :=
  match r with
  | .next _ => none
  | .fault _ => none
  | .refused e => some e

/-- The fault of a step that faults. -/
def faultOf (r : Result) : Option Fault :=
  match r with
  | .next _ => none
  | .fault e => some e
  | .refused _ => none

/-- Register `i` and `pc` after one step. -/
def stepped (s : State) (i : RegIdx) : Option (Word × Word) := after (step s) (fun t => (t.getX i, t.pc))

/-! ## Well-formedness: an ill-formed term for each check -/

theorem test_wf_jal : (Instr.jal 1#5 7#21).wellFormed = false := by decide
theorem test_wf_beq : (Instr.beq 1#5 2#5 1#13).wellFormed = false := by decide
theorem test_wf_bne : (Instr.bne 1#5 2#5 3#13).wellFormed = false := by decide
theorem test_wf_blt : (Instr.blt 1#5 2#5 5#13).wellFormed = false := by decide
theorem test_wf_bge : (Instr.bge 1#5 2#5 (-1)).wellFormed = false := by decide
theorem test_wf_bltu : (Instr.bltu 1#5 2#5 9#13).wellFormed = false := by decide
theorem test_wf_bgeu : (Instr.bgeu 1#5 2#5 4095#13).wellFormed = false := by decide
theorem test_wf_even : (Instr.jal 1#5 8#21).wellFormed = true ∧ (Instr.bne 10#5 0#5 (-4)).wellFormed = true := by decide

/-! ## Decoding: every constructor, by the word of its rule's example -/

/-- The examples of R172, R173. -/
theorem test_decode_upper :
    decode 0x12345537#32 = .instr (.lui 10#5 0x12345#20) ∧
    decode 0x00001297#32 = .instr (.auipc 5#5 1#20) := by decide

/-- The examples of R174 to R182. -/
theorem test_decode_immediate :
    decode 0x00500513#32 = .instr (.addi 10#5 0#5 5#12) ∧
    decode 0x0005A513#32 = .instr (.slti 10#5 11#5 0#12) ∧
    decode 0x0015B513#32 = .instr (.sltiu 10#5 11#5 1#12) ∧
    decode 0xFFF5C513#32 = .instr (.xori 10#5 11#5 (-1)) ∧
    decode 0x0F05E513#32 = .instr (.ori 10#5 11#5 0x0F0#12) ∧
    decode 0x0FF5F513#32 = .instr (.andi 10#5 11#5 0xFF#12) ∧
    decode 0x01F59513#32 = .instr (.slli 10#5 11#5 31#5) ∧
    decode 0x01F5D513#32 = .instr (.srli 10#5 11#5 31#5) ∧
    decode 0x41F55513#32 = .instr (.srai 10#5 10#5 31#5) := by decide

/-- The examples of R183 to R192. -/
theorem test_decode_register :
    decode 0x00C58533#32 = .instr (.add 10#5 11#5 12#5) ∧
    decode 0x40C58533#32 = .instr (.sub 10#5 11#5 12#5) ∧
    decode 0x00C59533#32 = .instr (.sll 10#5 11#5 12#5) ∧
    decode 0x00C5A533#32 = .instr (.slt 10#5 11#5 12#5) ∧
    decode 0x00C5B533#32 = .instr (.sltu 10#5 11#5 12#5) ∧
    decode 0x00C5C533#32 = .instr (.xor 10#5 11#5 12#5) ∧
    decode 0x00C5D533#32 = .instr (.srl 10#5 11#5 12#5) ∧
    decode 0x40C5D533#32 = .instr (.sra 10#5 11#5 12#5) ∧
    decode 0x00C5E533#32 = .instr (.or 10#5 11#5 12#5) ∧
    decode 0x00C5F533#32 = .instr (.and 10#5 11#5 12#5) := by decide

/-- The examples of R251 to R258. -/
theorem test_decode_multiply :
    decode 0x02C58533#32 = .instr (.mul 10#5 11#5 12#5) ∧
    decode 0x02C59533#32 = .instr (.mulh 10#5 11#5 12#5) ∧
    decode 0x02C5A533#32 = .instr (.mulhsu 10#5 11#5 12#5) ∧
    decode 0x02C5B533#32 = .instr (.mulhu 10#5 11#5 12#5) ∧
    decode 0x02C5C533#32 = .instr (.div 10#5 11#5 12#5) ∧
    decode 0x02C5D533#32 = .instr (.divu 10#5 11#5 12#5) ∧
    decode 0x02C5E533#32 = .instr (.rem 10#5 11#5 12#5) ∧
    decode 0x02C5F533#32 = .instr (.remu 10#5 11#5 12#5) := by decide

/-- The examples of R211 to R218. -/
theorem test_decode_transfer :
    decode 0x008000EF#32 = .instr (.jal 1#5 8#21) ∧
    decode 0x004280E7#32 = .instr (.jalr 1#5 5#5 4#12) ∧
    decode 0x00B50463#32 = .instr (.beq 10#5 11#5 8#13) ∧
    decode 0xFE051EE3#32 = .instr (.bne 10#5 0#5 (-4)) ∧
    decode 0x00B54663#32 = .instr (.blt 10#5 11#5 12#13) ∧
    decode 0xFEB558E3#32 = .instr (.bge 10#5 11#5 (-16)) ∧
    decode 0x00B56463#32 = .instr (.bltu 10#5 11#5 8#13) ∧
    decode 0x00B57463#32 = .instr (.bgeu 10#5 11#5 8#13) := by decide

/-- The examples of R231 to R235. -/
theorem test_decode_load :
    decode 0x00058503#32 = .instr (.lb 10#5 11#5 0#12) ∧
    decode 0x00259503#32 = .instr (.lh 10#5 11#5 2#12) ∧
    decode 0xFFC5A503#32 = .instr (.lw 10#5 11#5 (-4)) ∧
    decode 0x0035C503#32 = .instr (.lbu 10#5 11#5 3#12) ∧
    decode 0x0005D503#32 = .instr (.lhu 10#5 11#5 0#12) := by decide

/-- The examples of R236 to R238. -/
theorem test_decode_store :
    decode 0x00A580A3#32 = .instr (.sb 10#5 11#5 1#12) ∧
    decode 0x00A59123#32 = .instr (.sh 10#5 11#5 2#12) ∧
    decode 0x00A5A023#32 = .instr (.sw 10#5 11#5 0#12) := by decide

/-- The examples of R270 to R277. -/
theorem test_decode_system :
    decode 0x0FF0000F#32 = .instr (.fence 0#4 15#4 15#4 0#5 0#5) ∧
    decode 0x0000100F#32 = .instr (.fenceI 0#12 0#5 0#5) ∧
    decode 0x00000073#32 = .instr .ecall ∧
    decode 0x00100073#32 = .instr .ebreak ∧
    decode 0x00200073#32 = .instr .uret ∧
    decode 0x10500073#32 = .instr .wfi := by decide

/-- The examples of R281 to R286. -/
theorem test_decode_csr :
    decode 0x04059573#32 = .instr (.csrrw 10#5 0x040#12 11#5) ∧
    decode 0xC0002573#32 = .instr (.csrrs 10#5 0xC00#12 0#5) ∧
    decode 0x0002B073#32 = .instr (.csrrc 0#5 0x000#12 5#5) ∧
    decode 0x003FD073#32 = .instr (.csrrwi 0#5 0x003#12 31#5) ∧
    decode 0x0000E073#32 = .instr (.csrrsi 0#5 0x000#12 1#5) ∧
    decode 0x0440F573#32 = .instr (.csrrci 10#5 0x044#12 1#5) := by decide

/-! ## Decoding: a word of each family bit by bit, from the formats of R131 and the rows of R133 -/

theorem test_bits_lui : decode (0b00010010001101000101#20 ++ 0b01010#5 ++ 0b0110111#7) = .instr (.lui 10#5 0x12345#20) := by decide
theorem test_bits_addi : decode (0b000000000101#12 ++ 0b00000#5 ++ 0b000#3 ++ 0b01010#5 ++ 0b0010011#7) =
    .instr (.addi 10#5 0#5 5#12) := by decide
theorem test_bits_srai : decode (0b0100000#7 ++ 0b11111#5 ++ 0b01010#5 ++ 0b101#3 ++ 0b01010#5 ++ 0b0010011#7) =
    .instr (.srai 10#5 10#5 31#5) := by decide
theorem test_bits_sub : decode (0b0100000#7 ++ 0b01100#5 ++ 0b01011#5 ++ 0b000#3 ++ 0b01010#5 ++ 0b0110011#7) =
    .instr (.sub 10#5 11#5 12#5) := by decide
theorem test_bits_mulhsu : decode (0b0000001#7 ++ 0b01100#5 ++ 0b01011#5 ++ 0b010#3 ++ 0b01010#5 ++ 0b0110011#7) =
    .instr (.mulhsu 10#5 11#5 12#5) := by decide
/-- `imm[20|10:1|11|19:12]`: the offset -2 has every encoded bit set. -/
theorem test_bits_jal : decode (0b1#1 ++ 0b1111111111#10 ++ 0b1#1 ++ 0b11111111#8 ++ 0b00001#5 ++ 0b1101111#7) =
    .instr (.jal 1#5 (-2)) := by decide
/-- `imm[11]` alone. -/
theorem test_bits_jal_bit11 : decode (0b0#1 ++ 0b0000000000#10 ++ 0b1#1 ++ 0b00000000#8 ++ 0b00001#5 ++ 0b1101111#7) =
    .instr (.jal 1#5 0x800#21) := by decide
/-- `imm[12|10:5]`, `imm[4:1|11]`: `imm[11]` alone. -/
theorem test_bits_beq : decode (0b0000000#7 ++ 0b01011#5 ++ 0b01010#5 ++ 0b000#3 ++ 0b00001#5 ++ 0b1100011#7) =
    .instr (.beq 10#5 11#5 0x800#13) := by decide
theorem test_bits_lw : decode (0b111111111100#12 ++ 0b01011#5 ++ 0b010#3 ++ 0b01010#5 ++ 0b0000011#7) =
    .instr (.lw 10#5 11#5 (-4)) := by decide
theorem test_bits_sw : decode (0b1111111#7 ++ 0b01010#5 ++ 0b01011#5 ++ 0b010#3 ++ 0b11100#5 ++ 0b0100011#7) =
    .instr (.sw 10#5 11#5 (-4)) := by decide
theorem test_bits_fence : decode (0b1000#4 ++ 0b0011#4 ++ 0b0001#4 ++ 0b00010#5 ++ 0b000#3 ++ 0b00011#5 ++ 0b0001111#7) =
    .instr (.fence 8#4 3#4 1#4 2#5 3#5) := by decide
theorem test_bits_csrrci : decode (0b000001000100#12 ++ 0b00001#5 ++ 0b111#3 ++ 0b01010#5 ++ 0b1110011#7) =
    .instr (.csrrci 10#5 0x044#12 1#5) := by decide
/-- A floating-point and an atomic major opcode are refused; the reserved neighbours are illegal (R136, R137). -/
theorem test_decode_rejects : decode 0x0000A007#32 = .refused ∧ decode 0x1000252F#32 = .refused ∧ decode 0x30200073#32 = .illegal ∧
    decode 0x02051513#32 = .illegal ∧ decode 0xFFFFFFFF#32 = .illegal ∧ decode 0x00000001#32 = .illegal := by decide

/-! ## One step of each instruction, with the values of its rule's example -/

/-- R172. -/
theorem test_lui : stepped (withX [] (running 0x00400000#32 0x12345537#32)) 10#5 =
    some (0x12345000#32, 0x00400004#32) := by decide

/-- R173. -/
theorem test_auipc : stepped (withX [] (running 0x00400008#32 0x00001297#32)) 5#5 =
    some (0x00401008#32, 0x0040000C#32) := by decide

/-- R174. -/
theorem test_addi : stepped (withX [] (running 0x00400000#32 0x00500513#32)) 10#5 =
    some (5#32, 0x00400004#32) := by decide

/-- R22, R138: a write to register 0 is discarded. -/
theorem test_addi_zero : stepped (withX [] (running 0x00400000#32 0x00500013#32)) 0#5 =
    some (0#32, 0x00400004#32) := by decide

/-- R175. -/
theorem test_slti : stepped (withX [(11#5, 0xFFFFFFFF#32)] (running 0x00400000#32 0x0005A513#32)) 10#5 =
    some (1#32, 0x00400004#32) := by decide

/-- R176. -/
theorem test_sltiu : stepped (withX [(11#5, 0#32)] (running 0x00400000#32 0x0015B513#32)) 10#5 =
    some (1#32, 0x00400004#32) := by decide

/-- R177. -/
theorem test_xori : stepped (withX [(11#5, 0x0000FF00#32)] (running 0x00400000#32 0xFFF5C513#32)) 10#5 =
    some (0xFFFF00FF#32, 0x00400004#32) := by decide

/-- R178. -/
theorem test_ori : stepped (withX [(11#5, 0x00000F00#32)] (running 0x00400000#32 0x0F05E513#32)) 10#5 =
    some (0x00000FF0#32, 0x00400004#32) := by decide

/-- R179. -/
theorem test_andi : stepped (withX [(11#5, 0x12345678#32)] (running 0x00400000#32 0x0FF5F513#32)) 10#5 =
    some (0x00000078#32, 0x00400004#32) := by decide

/-- R180. -/
theorem test_slli : stepped (withX [(11#5, 1#32)] (running 0x00400000#32 0x01F59513#32)) 10#5 =
    some (0x80000000#32, 0x00400004#32) := by decide

/-- R181. -/
theorem test_srli : stepped (withX [(11#5, 0x80000000#32)] (running 0x00400000#32 0x01F5D513#32)) 10#5 =
    some (1#32, 0x00400004#32) := by decide

/-- R182. -/
theorem test_srai : stepped (withX [(10#5, 0x80000000#32)] (running 0x00400000#32 0x41F55513#32)) 10#5 =
    some (0xFFFFFFFF#32, 0x00400004#32) := by decide

/-- R183. -/
theorem test_add : stepped (withX [(11#5, 0x7FFFFFFF#32), (12#5, 1#32)] (running 0x00400000#32 0x00C58533#32)) 10#5 =
    some (0x80000000#32, 0x00400004#32) := by decide

/-- R184. -/
theorem test_sub : stepped (withX [(11#5, 0#32), (12#5, 1#32)] (running 0x00400000#32 0x40C58533#32)) 10#5 =
    some (0xFFFFFFFF#32, 0x00400004#32) := by decide

/-- R185. -/
theorem test_sll : stepped (withX [(11#5, 1#32), (12#5, 33#32)] (running 0x00400000#32 0x00C59533#32)) 10#5 =
    some (2#32, 0x00400004#32) := by decide

/-- R186. -/
theorem test_slt : stepped (withX [(11#5, 0x80000000#32), (12#5, 0x7FFFFFFF#32)] (running 0x00400000#32 0x00C5A533#32)) 10#5 =
    some (1#32, 0x00400004#32) := by decide

/-- R187. -/
theorem test_sltu : stepped (withX [(11#5, 0x80000000#32), (12#5, 0x7FFFFFFF#32)] (running 0x00400000#32 0x00C5B533#32)) 10#5 =
    some (0#32, 0x00400004#32) := by decide

/-- R188. -/
theorem test_xor : stepped (withX [(11#5, 0xFF00FF00#32), (12#5, 0x0FF00FF0#32)] (running 0x00400000#32 0x00C5C533#32)) 10#5 =
    some (0xF0F0F0F0#32, 0x00400004#32) := by decide

/-- R189. -/
theorem test_srl : stepped (withX [(11#5, 0x80000000#32), (12#5, 4#32)] (running 0x00400000#32 0x00C5D533#32)) 10#5 =
    some (0x08000000#32, 0x00400004#32) := by decide

/-- R190. -/
theorem test_sra : stepped (withX [(11#5, 0x80000000#32), (12#5, 4#32)] (running 0x00400000#32 0x40C5D533#32)) 10#5 =
    some (0xF8000000#32, 0x00400004#32) := by decide

/-- R191. -/
theorem test_or : stepped (withX [(11#5, 0xFF00FF00#32), (12#5, 0x0FF00FF0#32)] (running 0x00400000#32 0x00C5E533#32)) 10#5 =
    some (0xFFF0FFF0#32, 0x00400004#32) := by decide

/-- R192. -/
theorem test_and : stepped (withX [(11#5, 0xFF00FF00#32), (12#5, 0x0FF00FF0#32)] (running 0x00400000#32 0x00C5F533#32)) 10#5 =
    some (0x0F000F00#32, 0x00400004#32) := by decide

/-- R251. -/
theorem test_mul : stepped (withX [(11#5, 0xFFFFFFFF#32), (12#5, 5#32)] (running 0x00400000#32 0x02C58533#32)) 10#5 =
    some (0xFFFFFFFB#32, 0x00400004#32) := by decide

/-- R252. -/
theorem test_mulh : stepped (withX [(11#5, 0x80000000#32), (12#5, 0x80000000#32)] (running 0x00400000#32 0x02C59533#32)) 10#5 =
    some (0x40000000#32, 0x00400004#32) := by decide

/-- R253. -/
theorem test_mulhsu : stepped (withX [(11#5, 0xFFFFFFFF#32), (12#5, 0xFFFFFFFF#32)] (running 0x00400000#32 0x02C5A533#32)) 10#5 =
    some (0xFFFFFFFF#32, 0x00400004#32) := by decide

/-- R254. -/
theorem test_mulhu : stepped (withX [(11#5, 0xFFFFFFFF#32), (12#5, 0xFFFFFFFF#32)] (running 0x00400000#32 0x02C5B533#32)) 10#5 =
    some (0xFFFFFFFE#32, 0x00400004#32) := by decide

/-- R255. -/
theorem test_div : stepped (withX [(11#5, 0xFFFFFFF9#32), (12#5, 2#32)] (running 0x00400000#32 0x02C5C533#32)) 10#5 =
    some (0xFFFFFFFD#32, 0x00400004#32) := by decide

/-- R250, the table. -/
theorem test_div_overflow : stepped (withX [(11#5, 0x80000000#32), (12#5, 0xFFFFFFFF#32)] (running 0x00400000#32 0x02C5C533#32)) 10#5 =
    some (0x80000000#32, 0x00400004#32) := by decide

/-- R256. -/
theorem test_divu : stepped (withX [(11#5, 0xFFFFFFF9#32), (12#5, 2#32)] (running 0x00400000#32 0x02C5D533#32)) 10#5 =
    some (0x7FFFFFFC#32, 0x00400004#32) := by decide

/-- R250, the table. -/
theorem test_divu_zero : stepped (withX [(11#5, 7#32), (12#5, 0#32)] (running 0x00400000#32 0x02C5D533#32)) 10#5 =
    some (0xFFFFFFFF#32, 0x00400004#32) := by decide

/-- R257. -/
theorem test_rem : stepped (withX [(11#5, 0xFFFFFFF9#32), (12#5, 2#32)] (running 0x00400000#32 0x02C5E533#32)) 10#5 =
    some (0xFFFFFFFF#32, 0x00400004#32) := by decide

/-- R250, the table. -/
theorem test_rem_zero : stepped (withX [(11#5, 0xFFFFFFF9#32), (12#5, 0#32)] (running 0x00400000#32 0x02C5E533#32)) 10#5 =
    some (0xFFFFFFF9#32, 0x00400004#32) := by decide

/-- R258. -/
theorem test_remu : stepped (withX [(11#5, 0xFFFFFFF9#32), (12#5, 2#32)] (running 0x00400000#32 0x02C5F533#32)) 10#5 =
    some (1#32, 0x00400004#32) := by decide

/-- R250, the table. -/
theorem test_remu_wide : stepped (withX [(11#5, 0x80000000#32), (12#5, 0xFFFFFFFF#32)] (running 0x00400000#32 0x02C5F533#32)) 10#5 =
    some (0x80000000#32, 0x00400004#32) := by decide

/-- R211. -/
theorem test_jal : stepped (withX [] (running 0x00400000#32 0x008000EF#32)) 1#5 =
    some (0x00400004#32, 0x00400008#32) := by decide

/-- R212. -/
theorem test_jalr : stepped (withX [(5#5, 0x00400100#32)] (running 0x00400010#32 0x004280E7#32)) 1#5 =
    some (0x00400014#32, 0x00400104#32) := by decide

/-- R212: the base is read before the link is written; bit 0 is cleared, bit 1 is not. -/
theorem test_jalr_same : stepped (withX [(1#5, 0x00400103#32)] (running 0x00400000#32 0x000080E7#32)) 1#5 =
    some (0x00400004#32, 0x00400102#32) := by decide

/-- R213. -/
theorem test_beq : stepped (withX [(10#5, 7#32), (11#5, 7#32)] (running 0x00400000#32 0x00B50463#32)) 10#5 =
    some (7#32, 0x00400008#32) := by decide

/-- R213. -/
theorem test_beq_not : stepped (withX [(10#5, 7#32), (11#5, 8#32)] (running 0x00400000#32 0x00B50463#32)) 10#5 =
    some (7#32, 0x00400004#32) := by decide

/-- R214. -/
theorem test_bne : stepped (withX [(10#5, 3#32)] (running 0x00400010#32 0xFE051EE3#32)) 10#5 =
    some (3#32, 0x0040000C#32) := by decide

/-- R215. -/
theorem test_blt : stepped (withX [(10#5, 0xFFFFFFFF#32), (11#5, 0#32)] (running 0x00400000#32 0x00B54663#32)) 10#5 =
    some (0xFFFFFFFF#32, 0x0040000C#32) := by decide

/-- R216. -/
theorem test_bge : stepped (withX [(10#5, 5#32), (11#5, 5#32)] (running 0x00400020#32 0xFEB558E3#32)) 10#5 =
    some (5#32, 0x00400010#32) := by decide

/-- R217. -/
theorem test_bltu : stepped (withX [(10#5, 0#32), (11#5, 0xFFFFFFFF#32)] (running 0x00400000#32 0x00B56463#32)) 10#5 =
    some (0#32, 0x00400008#32) := by decide

/-- R218. -/
theorem test_bgeu : stepped (withX [(10#5, 0xFFFFFFFF#32), (11#5, 1#32)] (running 0x00400000#32 0x00B57463#32)) 10#5 =
    some (0xFFFFFFFF#32, 0x00400008#32) := by decide

/-- The bytes of the load examples: 0x80, 0x91, 0xA2, 0xF3 at 0x10010000 (42_load_store.md, section 2). -/
def loadExample (v : Word) : State := withBytes 0x10010000 [0x80#8, 0x91#8, 0xA2#8, 0xF3#8] (running 0x00400000#32 v)

/-- R231. -/
theorem test_lb : stepped (withX [(11#5, 0x10010000#32)] (loadExample 0x00058503#32)) 10#5 =
    some (0xFFFFFF80#32, 0x00400004#32) := by decide

/-- R232. -/
theorem test_lh : stepped (withX [(11#5, 0x10010000#32)] (loadExample 0x00259503#32)) 10#5 =
    some (0xFFFFF3A2#32, 0x00400004#32) := by decide

/-- R233. -/
theorem test_lw : stepped (withX [(11#5, 0x10010004#32)] (loadExample 0xFFC5A503#32)) 10#5 =
    some (0xF3A29180#32, 0x00400004#32) := by decide

/-- R234. -/
theorem test_lbu : stepped (withX [(11#5, 0x10010000#32)] (loadExample 0x0035C503#32)) 10#5 =
    some (0x000000F3#32, 0x00400004#32) := by decide

/-- R235. -/
theorem test_lhu : stepped (withX [(11#5, 0x10010000#32)] (loadExample 0x0005D503#32)) 10#5 =
    some (0x00009180#32, 0x00400004#32) := by decide

/-- The word at 0x10010000 after one step of a store example (42_load_store.md, section 3). -/
def stored (v : Word) : Option Word :=
  after (step (withX [(10#5, 0x11223344#32), (11#5, 0x10010000#32)] (running 0x00400000#32 v))) (fun t => wordAt t 0x10010000#32)

/-- R236. -/
theorem test_sb : stored 0x00A580A3#32 = some 0x00004400#32 := by decide

/-- R237. -/
theorem test_sh : stored 0x00A59123#32 = some 0x33440000#32 := by decide

/-- R238: the bytes are 0x44, 0x33, 0x22, 0x11. -/
theorem test_sw :
    after (step (withX [(10#5, 0x11223344#32), (11#5, 0x10010000#32)] (running 0x00400000#32 0x00A5A023#32)))
      (fun t => [t.byteAt 0x10010000, t.byteAt 0x10010001, t.byteAt 0x10010002, t.byteAt 0x10010003, t.byteAt 0x10010004]) =
    some [0x44#8, 0x33#8, 0x22#8, 0x11#8, 0#8] := by decide

/-- R379, step n: `lw a0, 0(zero)` raises LoadAccessFault(0) at 0x00400008. -/
theorem test_lw_raises :
    after (step (running 0x00400008#32 0x00002503#32))
      (fun t => ((t.ctl.trapPending, t.ctl.trapCause, t.ctl.trapValue, t.ctl.trapPc), t.pc, t.getX 10#5, t.csr.cycle64)) =
    some ((true, 5#32, 0#32, 0x00400008#32), 0x0040000C#32, 0#32, 0#64) := by decide

/-- A misaligned and unmapped word store reports the misalignment (R239, R375). -/
theorem test_sw_misaligned :
    after (step (withX [(11#5, 1#32)] (running 0x00400000#32 0x00A5A023#32)))
      (fun t => (t.ctl.trapPending, t.ctl.trapCause, t.ctl.trapValue, t.pc)) =
    some (true, 6#32, 1#32, 0x00400004#32) := by decide

/-- R379's state before step n + 1, a handler word at 0x00400100. -/
def trapWaiting (ustatus : Word) : State :=
  withBytes 0x00400100 [0x13#8] (withCsr 0x005#12 0x00400100#32 (withCsr 0x000#12 ustatus
    (raise 5#32 0#32 (running 0x00400008#32 0x00002503#32))))

/-- R379, step n + 1: the handler is entered. -/
theorem test_trap_entry :
    after (step (trapWaiting 0x01#32))
      (fun t => ((t.csr.ucause, t.csr.uepc, t.csr.utval, t.csr.ustatus), t.pc, t.ctl.trapPending, t.run.runState)) =
    some ((5#32, 0x00400008#32, 0#32, 0x10#32), 0x00400100#32, false, .running) := by decide

/-- R379 with `ustatus` 0: the run ends with EXCEPTION and the fault record. -/
theorem test_trap_unhandled :
    after (step (trapWaiting 0#32))
      (fun t => ((t.csr.ucause, t.csr.uepc, t.run.runState, t.run.haltReason), t.run.faultPc, t.run.faultCause, t.run.faultValue)) =
    some ((5#32, 0x00400008#32, .terminated, .exception), 0x00400008#32, 5#32, 0#32) := by decide

/-- R270. -/
theorem test_fence : stepped (running 0x00400000#32 0x0FF0000F#32) 10#5 = some (0#32, 0x00400004#32) := by decide

/-- R271. -/
theorem test_fence_i : stepped (running 0x00400000#32 0x0000100F#32) 10#5 = some (0#32, 0x00400004#32) := by decide

/-- R277, R312: WFI is counted. -/
theorem test_wfi : after (step (running 0x00400000#32 0x10500073#32)) (fun t => (t.pc, t.csr.cycle64, t.csr.instret64)) =
    some (0x00400004#32, 1#64, 1#64) := by decide

/-- R272, R274, scenario A: service 93 exits with the argument, and is not counted. -/
theorem test_ecall_exit :
    after (step (withX [(10#5, 5#32), (17#5, 93#32)] (running 0x00400004#32 0x00000073#32)))
      (fun t => (t.run.runState, t.run.haltReason, t.run.exitCode, t.csr.cycle64)) =
    some (.terminated, .normalTermination, 5#32, 0#64) := by decide

/-- R274: an unknown service raises cause 8 at the ECALL. -/
theorem test_ecall_unknown :
    after (step (running 0x00400004#32 0x00000073#32))
      (fun t => (t.run.runState, t.run.haltReason, t.run.faultPc, t.run.faultCause, t.run.faultValue)) =
    some (.terminated, .exception, 0x00400004#32, 8#32, 0#32) := by decide

/-- R275. -/
theorem test_ebreak :
    after (step (running 0x00400008#32 0x00100073#32)) (fun t => (t.pc, t.run.runState, t.run.haltReason, t.csr.instret64)) =
    some (0x0040000C#32, .paused, .breakpoint, 1#64) := by decide

/-- R276. -/
theorem test_uret :
    after (step (withCsr 0x000#12 0x10#32 (withCsr 0x041#12 0x00400020#32 (running 0x00400000#32 0x00200073#32))))
      (fun t => (t.csr.ustatus, t.pc)) = some (0x01#32, 0x00400020#32) := by decide

/-- R281. -/
theorem test_csrrw :
    after (step (withX [(11#5, 0x12345678#32)] (running 0x00400000#32 0x04059573#32)))
      (fun t => (t.getX 10#5, t.csr.uscratch, t.pc)) = some (0#32, 0x12345678#32, 0x00400004#32) := by decide

/-- R287 (c): `ustatus` is masked. -/
theorem test_csrrw_masked :
    after (step (withX [(5#5, 0xFFFFFFFF#32)] (running 0x00400000#32 0x00029073#32))) (fun t => t.csr.ustatus) =
    some 0x00000011#32 := by decide

/-- R282: after three completed instructions `cycle` reads 3. -/
theorem test_csrrs :
    stepped (count (count (count (running 0x00400000#32 0xC0002573#32)))) 10#5 = some (3#32, 0x00400004#32) := by decide

/-- R283. -/
theorem test_csrrc :
    after (step (withX [(5#5, 1#32)] (withCsr 0x000#12 0x11#32 (running 0x00400000#32 0x0002B073#32))))
      (fun t => t.csr.ustatus) = some 0x10#32 := by decide

/-- R284. -/
theorem test_csrrwi :
    after (step (running 0x00400000#32 0x003FD073#32)) (fun t => (t.csr.fcsr, csrRead 0x001#12 t, csrRead 0x002#12 t)) =
    some (0x1F#32, 0x1F#32, 0#32) := by decide

/-- R287 (a): `frm` through `fcsr`. -/
theorem test_csrrwi_frm :
    after (step (withCsr 0x003#12 0x1F#32 (running 0x00400000#32 0x0022D073#32)))
      (fun t => (t.csr.fcsr, csrRead 0x001#12 t, csrRead 0x002#12 t)) = some (0xBF#32, 0x1F#32, 5#32) := by decide

/-- R285. -/
theorem test_csrrsi :
    after (step (running 0x00400000#32 0x0000E073#32)) (fun t => t.csr.ustatus) = some 0x01#32 := by decide

/-- R286. -/
theorem test_csrrci :
    after (step (withCsr 0x044#12 0x1#32 (running 0x00400000#32 0x0440F573#32))) (fun t => (t.getX 10#5, t.csr.uip)) =
    some (1#32, 0#32) := by decide

/-- R136, R372: an illegal word raises with cause 2 and value 0. -/
theorem test_illegal :
    after (step (running 0x00400000#32 0x30200073#32)) (fun t => (t.ctl.trapPending, t.ctl.trapCause, t.ctl.trapValue, t.pc)) =
    some (true, 2#32, 0#32, 0x00400004#32) := by decide

/-- R137: a refused word stops the model. -/
theorem test_refused : refusalOf (step (running 0x00400000#32 0x1000252F#32)) = some .refusedOpcode := by decide

/-- R308: the null word. -/
theorem test_null : after (step (running 0x00400000#32 0#32)) (fun t => (t.run.runState, t.run.haltReason)) =
    some (.terminated, .cliffTermination) := by decide

/-- R82, R83: the three presets are well-formed. -/
theorem test_presets : wfConfig .default = true ∧ wfConfig .compactDataAtZero = true ∧ wfConfig .compactTextAtZero = true := by
  decide

/-- R83 (c): overlapping text and data are not well-formed. -/
theorem test_ill_formed_configuration :
    wfConfig { MemConfig.default with textBase := 0x10000000#32, textLimit := 0x1000FFFC#32 } = false := by decide

/-- R404, R320: `withFetchWord` places the word the next step runs. -/
theorem test_placed : stepped (State.reset.withFetchWord 32 0x00500513) 10#5 = some (5#32, 0x00400004#32) := by decide

/-! ## Witnesses: for every obligation with hypotheses, a state and operands that meet them, clause by clause -/

/-- A running core about to step, without limit. -/
theorem about_running (pc v : Word) : AboutToStep (running pc v) := ⟨rfl, rfl, rfl, rfl⟩

theorem unlimited_running (pc v : Word) : Unlimited (running pc v) := ⟨rfl, rfl⟩

theorem quiet_running (pc v : Word) : NoEvent (running pc v) := 
  ⟨rfl, by simp [running, placeWord, State.setPc, State.reset, resetCsrs]⟩

/-- `addi a0, zero, 5` at 0x00400000, about to run. -/
abbrev sample : State := running 0x00400000#32 0x00500513#32

theorem test_wit_DecodeEncodeRoundTrip : (Instr.beq 1#5 2#5 (-4096)).wellFormed = true ∧
    (Instr.bgeu 31#5 31#5 4094#13).wellFormed = true ∧ (Instr.jal 31#5 0xFFFFE#21).wellFormed = true ∧
    (Instr.jal 1#5 0x100000#21).wellFormed = true ∧ (Instr.csrrci 31#5 0xFFF#12 31#5).wellFormed = true := by decide

theorem test_wit_EncodeDecodeRoundTrip : decode 0x80000063#32 = .instr (.beq 0#5 0#5 (-4096)) := by decide

theorem test_wit_DecoderFollowsOpcodeMap :
    (∃ r ∈ opcodeMap, r.selects 0x00000037#32 = true) ∧ (∃ r ∈ opcodeMap, r.selects 0xFFFFF073#32 = true) ∧
    (∀ r ∈ opcodeMap, r.selects 0x00000007#32 = false) ∧ (∀ r ∈ opcodeMap, r.selects 0xFFFFFFFF#32 = false) := by decide

/-- One word for each class of R136. -/
theorem test_wit_IllegalWordsRaise :
    (0xFFFFFFFE#32).extractLsb' 0 2 ≠ 0b11#2 ∧
    (0x0000003B#32).extractLsb' 0 7 ∈ [0b0011011#7, 0b0111011#7] ∧
    ((0x00006003#32).extractLsb' 0 7 = 0b0000011#7 ∧ (0x00006003#32).extractLsb' 12 3 ∈ [0b011#3, 0b110#3]) ∧
    ((0x00003023#32).extractLsb' 0 7 = 0b0100011#7 ∧ (0x00003023#32).extractLsb' 12 3 = 0b011#3) ∧
    ((0x02001013#32).extractLsb' 0 7 = 0b0010011#7 ∧ (0x02001013#32).extractLsb' 12 3 ∈ [0b001#3, 0b101#3] ∧
      (0x02001013#32).getLsbD 25 = true) ∧
    ((0x00001067#32).extractLsb' 0 7 = 0b1100111#7 ∧ (0x00001067#32).extractLsb' 12 3 ≠ 0b000#3) ∧
    ((0x00002063#32).extractLsb' 0 7 = 0b1100011#7 ∧ (0x00002063#32).extractLsb' 12 3 ∈ [0b010#3, 0b011#3]) ∧
    ((0x00007003#32).extractLsb' 0 7 = 0b0000011#7 ∧ (0x00007003#32).extractLsb' 12 3 = 0b111#3) ∧
    ((0x00004023#32).extractLsb' 0 7 = 0b0100011#7 ∧ (0x00004023#32).extractLsb' 12 3 ∈ [0b100#3, 0b101#3, 0b110#3, 0b111#3]) ∧
    ((0x0000200F#32).extractLsb' 0 7 = 0b0001111#7 ∧
      (0x0000200F#32).extractLsb' 12 3 ∈ [0b010#3, 0b011#3, 0b100#3, 0b101#3, 0b110#3, 0b111#3]) ∧
    ((0x00004073#32).extractLsb' 0 7 = 0b1110011#7 ∧ (0x00004073#32).extractLsb' 12 3 = 0b100#3) ∧
    ((0x04000033#32).extractLsb' 0 7 = 0b0110011#7 ∧
      (0x04000033#32).extractLsb' 25 7 ∉ [0b0000000#7, 0b0100000#7, 0b0000001#7]) ∧
    ((0x40001033#32).extractLsb' 0 7 = 0b0110011#7 ∧ (0x40001033#32).extractLsb' 25 7 = 0b0100000#7 ∧
      (0x40001033#32).extractLsb' 12 3 ∉ [0b000#3, 0b101#3]) ∧
    ((0x40001013#32).extractLsb' 0 7 = 0b0010011#7 ∧ (0x40001013#32).extractLsb' 12 3 = 0b001#3 ∧
      (0x40001013#32).extractLsb' 25 7 ≠ 0b0000000#7) ∧
    ((0x80005013#32).extractLsb' 0 7 = 0b0010011#7 ∧ (0x80005013#32).extractLsb' 12 3 = 0b101#3 ∧
      (0x80005013#32).extractLsb' 25 7 ∉ [0b0000000#7, 0b0100000#7]) ∧
    ((0x30200073#32).extractLsb' 0 7 = 0b1110011#7 ∧ (0x30200073#32).extractLsb' 12 3 = 0b000#3 ∧
      0x30200073#32 ∉ [0x00000073#32, 0x00100073#32, 0x00200073#32, 0x10500073#32]) ∧
    (0x0000000B#32).extractLsb' 0 7 ∉ [0b0110111#7, 0b0010111#7, 0b1101111#7, 0b1100111#7, 0b1100011#7, 0b0000011#7,
      0b0100011#7, 0b0010011#7, 0b0110011#7, 0b0001111#7, 0b1110011#7, 0b0000111#7, 0b0100111#7, 0b1000011#7, 0b1000111#7,
      0b1001011#7, 0b1001111#7, 0b1010011#7, 0b0101111#7] ∧
    decode 0x30200073#32 = .illegal ∧ sample.ctl.trapPending = false := by decide

theorem test_wit_RefusedWordsAreRefused (w : Word) (_h : w ∈ [0x00000007#32, 0x1000252F#32]) :
    AboutToStep (running 0x00400000#32 w) ∧ NoEvent (running 0x00400000#32 w) :=
  ⟨about_running _ _, quiet_running _ _⟩

theorem test_wit_RefusedWordsAreRefused_fetch :
    fetch 0x00400000#32 (running 0x00400000#32 0x1000252F#32) = .ok 0x1000252F#32 ∧
    (0x1000252F#32).extractLsb' 0 7 = 0b0101111#7 ∧ (0x00000007#32).extractLsb' 0 7 = 0b0000111#7 := by
  refine ⟨rfl, by decide, by decide⟩

theorem test_wit_ShiftImmediateResults : 0b0000001#7 ≠ 0b0000000#7 ∧ 0b1111111#7 ≠ 0b0000000#7 := by decide

/-- Divisor 0; the overflow; neither. -/
theorem test_wit_DivideResults :
    (withX [(11#5, 7#32)] sample).getX 12#5 = 0#32 ∧
    ((withX [(11#5, 0x80000000#32), (12#5, 0xFFFFFFFF#32)] sample).getX 11#5 = 0x80000000#32 ∧
      (withX [(11#5, 0x80000000#32), (12#5, 0xFFFFFFFF#32)] sample).getX 12#5 = 0xFFFFFFFF#32) ∧
    ((withX [(11#5, 0x80000001#32), (12#5, 0xFFFFFFFF#32)] sample).getX 12#5 ≠ 0#32 ∧
      (withX [(11#5, 0x80000001#32), (12#5, 0xFFFFFFFF#32)] sample).getX 11#5 ≠ 0x80000000#32) := by decide

theorem test_wit_DivisionEquation :
    let s := withX [(11#5, 0xFFFFFFF9#32), (12#5, 2#32)] sample
    (10#5 ≠ 0#5) ∧ (∃ q r qu ru, exec (.div 10#5 11#5 12#5) s = .next q ∧ exec (.rem 10#5 11#5 12#5) s = .next r ∧
      exec (.divu 10#5 11#5 12#5) s = .next qu ∧ exec (.remu 10#5 11#5 12#5) s = .next ru) ∧ s.getX 12#5 ≠ 0#32 :=
  ⟨by decide, ⟨_, _, _, _, rfl, rfl, rfl, rfl⟩, by decide⟩

theorem test_wit_JumpResults : (0x100000#21).getLsbD 0 = false ∧ (0x0FFFFE#21).getLsbD 0 = false := by decide

theorem test_wit_BranchResults : (0x1000#13).getLsbD 0 = false ∧ (0x0FFE#13).getLsbD 0 = false := by decide

/-- A misaligned target; the first address above the text segment; the last aligned one below it. -/
theorem test_wit_BadTargetsHaltAtTheNextFetch :
    isTransfer (.jalr 1#5 5#5 0#12) = true ∧ AboutToStep sample ∧
    after (exec (.jalr 1#5 5#5 0#12) (withX [(5#5, 0x00400006#32)] sample)) (fun t => decide (t.pc.toNat % 4 ≠ 0)) = some true ∧
    after (exec (.jalr 1#5 5#5 0#12) (withX [(5#5, 0x10000000#32)] sample))
      (fun t => decide (t.pc.toNat % 4 = 0 ∧ segmentOf t.params.memcfg t.heapPtr t.pc.toNat ≠ some .text)) = some true ∧
    after (exec (.jalr 1#5 5#5 0#12) (withX [(5#5, 0x003FFFFC#32)] sample))
      (fun t => decide (t.pc.toNat % 4 = 0 ∧ segmentOf t.params.memcfg t.heapPtr t.pc.toNat ≠ some .text)) = some true :=
  ⟨rfl, about_running _ _, by decide, by decide, by decide⟩

/-- The three clauses of a load, by width, at the ends of the data segment and around it. -/
theorem test_wit_LoadResults :
    let p := sample.params
    let h := sample.heapPtr
    resolve p h 0x10000000#32 .byte .load = .ok .data ∧ resolve p h 0x1003FFFF#32 .byte .load = .ok .data ∧
    resolve p h 0x1003FFFE#32 .half .load = .ok .data ∧ resolve p h 0x1003FFFC#32 .word .load = .ok .data ∧
    resolve p h 0x0FFFFFFF#32 .byte .load = .ok .text ∧ resolve p h 0xFFFFFFFC#32 .word .load = .ok .mmio ∧
    (mustAlign p .half = true ∧ (0x10000001#32).toNat % 2 ≠ 0) ∧ (mustAlign p .word = true ∧ (0x10000002#32).toNat % 4 ≠ 0) ∧
    resolve p h 0x003FFFFF#32 .byte .load = .error (.access .load 0x003FFFFF#32) ∧
    resolve p h 0x003FFFFC#32 .word .load = .error (.access .load 0x003FFFFC#32) ∧
    sample.ctl.trapPending = false :=
  ⟨rfl, rfl, rfl, rfl, rfl, rfl, by decide, by decide, rfl, rfl, rfl⟩

theorem sample_wf : sample.mem.wf := by decide

theorem test_wit_StoreResults :
    let p := sample.params
    let h := sample.heapPtr
    sample.mem.wf ∧ resolve p h 0x10000000#32 .byte .store = .ok .data ∧ resolve p h 0x7FFFFFFE#32 .half .store = .ok .stack ∧
    resolve p h 0x7FFFFFFC#32 .word .store = .ok .stack ∧ (mustAlign p .half = true ∧ (0x7FFFFFFF#32).toNat % 2 ≠ 0) ∧
    resolve p h 0x0FFFFFFC#32 .word .store = .error (.access .store 0x0FFFFFFC#32) ∧ sample.ctl.trapPending = false :=
  ⟨sample_wf, rfl, rfl, rfl, by decide, rfl, rfl⟩

/-- Each outcome of the check: misaligned; unmapped; past the end of the address space; two segments; denied; allowed. -/
theorem test_wit_AccessCheckOrder :
    let p := { Params.default with halfAlign := .free }
    let c := MemConfig.default
    (mustAlign p .word = true ∧ (0x10000001#32).toNat % 4 ≠ 0) ∧
    segmentOf c c.heapBase (0x003FFFFC#32).toNat = none ∧
    (mustAlign p .half = false ∧ segmentOf c c.heapBase (0xFFFFFFFF#32).toNat = some .mmio ∧ (0xFFFFFFFF#32).toNat + 2 - 1 > 0xFFFFFFFF) ∧
    (segmentOf c c.heapBase (0x1003FFFF#32).toNat = some .data ∧ segmentOf c c.heapBase ((0x1003FFFF#32).toNat + 1) = some .stack) ∧
    (segmentOf c c.heapBase (0x0FFFFFFC#32).toNat = some .text ∧ policyAllows p .text .store = false) ∧
    (segmentOf c c.heapBase (0x0FFFFFFC#32).toNat = some .text ∧ policyAllows p .text .fetch = true) := by decide

/-- Both ends of every segment, the heap one word long; the heap pointer at both of its bounds. -/
theorem test_wit_SegmentMap :
    let c := MemConfig.default
    let h := 0x10040004#32
    wfConfig c = true ∧ c.heapBase.toNat ≤ h.toNat ∧ h.toNat ≤ c.stackBase.toNat + 4 ∧
    (0x80000000#32).toNat ≤ c.stackBase.toNat + 4 ∧
    [0x00400000, 0x0FFFFFFF, 0x10000000, 0x1003FFFF, 0x10040000, 0x10040003, 0x10040004, 0x7FFFFFFF, 0x80000000, 0xFFFEFFFF,
      0xFFFF0000, 0xFFFFFFFF].map (segmentOf c h) =
    [some .text, some .text, some .data, some .data, some .heap, some .heap, some .stack, some .stack, some .kernel, some .kernel,
      some .mmio, some .mmio] ∧
    segmentOf c h 0x003FFFFF = none := by decide

theorem test_wit_AccessPolicyTable :
    let p := Params.default
    Segment.kernel ≠ .text ∧ segmentOf p.memcfg p.memcfg.heapBase (0x80000000#32).toNat = some .kernel ∧
    policyAllows p .kernel .fetch = false ∧ ¬(mustAlign p .word = true ∧ (0x80000000#32).toNat % 4 ≠ 0) := by decide

theorem test_wit_AlignedAccessesNeverCross :
    let p := Params.default
    let h := p.memcfg.heapBase
    wfConfig p.memcfg = true ∧ p.memcfg.heapBase.toNat ≤ h.toNat ∧ h.toNat ≤ p.memcfg.stackBase.toNat + 4 ∧ h.toNat % 4 = 0 ∧
    p.halfAlign = .required ∧ Width.word ≠ .double ∧ resolve p h 0x003FFFFC#32 .word .load = .error (.access .load 0x003FFFFC#32) :=
  ⟨by decide, by decide, by decide, by decide, rfl, by decide, rfl⟩

theorem test_wit_MemoryPorts :
    let p := sample.params
    let h := sample.heapPtr
    sample.mem.wf ∧ resolve p h 0x1003FFF8#32 .double .load = .ok .data ∧ resolve p h 0x1003FFF8#32 .double .store = .ok .data ∧
    resolve p h 0x1003FFFC#32 .double .load = .error (.misaligned .load 0x1003FFFC#32) ∧
    resolve p h 0x00400000#32 .word .store = .error (.access .store 0x00400000#32) :=
  ⟨sample_wf, rfl, rfl, rfl, rfl⟩

/-- `sample` with the self-modifying-code permission. -/
abbrev modifying : State := { sample with params := { sample.params with smcEnabled := true } }

theorem test_wit_WriteThenReadAndUnmapped :
    sample.mem.wf ∧ resolve sample.params sample.heapPtr 0x10000000#32 .double .store = .ok .data ∧
    resolve sample.params sample.heapPtr 0x10000000#32 .double .load = .ok .data ∧
    segmentOf sample.params.memcfg sample.heapPtr (0x003FFFFF#32).toNat = none ∧
    modifying.mem.wf ∧ (∃ t, memWrite 0x0FFFFFFC#32 .word 0x00000013#64 modifying = .ok t) ∧
    segmentOf modifying.params.memcfg modifying.heapPtr (0x0FFFFFFC#32).toNat = some .text :=
  ⟨sample_wf, rfl, rfl, by decide, by decide, ⟨_, rfl⟩, by decide⟩

/-- A negative size; a size past the stack pointer; one byte. -/
theorem test_wit_HeapAllocation :
    ((-1 : Int) < 0) ∧ ((sample.heapPtr.toNat : Int) + (0x70000000 + 3) / 4 * 4 > (stackFloor sample).toNat) ∧
    ¬((1 : Int) < 0 ∨ (sample.heapPtr.toNat : Int) + (1 + 3) / 4 * 4 > (stackFloor sample).toNat ∨
      (sample.heapPtr.toNat : Int) + (1 + 3) / 4 * 4 > sample.params.memcfg.stackBase.toNat + 4) ∧
    sample.params.stackFloor = .currentSp := by decide

/-- `sample` under an environment that always answers `o`. -/
abbrev answering (o : EnvOutcome) : State := { sample with params := { sample.params with env := .always o } }

theorem test_wit_EcallOutcomes :
    let l : List EnvAccess := [.read 0x10010000#32 .word, .write 0x10010000#32 .byte 1#64, .alloc 4]
    envAnswer (answering (.exit 3#32)) = .exit 3#32 ∧ envAnswer (answering (.raise 8#32 1#32)) = .raise 8#32 1#32 ∧
    envAnswer (answering (.continues [(0#5, 1#32), (31#5, 2#32)] [(0#5, 3#64)] l)) =
      .continues [(0#5, 1#32), (31#5, 2#32)] [(0#5, 3#64)] l ∧
    (envAccesses l (answering (.continues [(0#5, 1#32), (31#5, 2#32)] [(0#5, 3#64)] l))).2 = none :=
  ⟨rfl, rfl, rfl, rfl⟩

/-- An allocation of one byte, one that fails, and an access that fails after both. -/
theorem test_wit_EnvironmentFaultsAreTranslated :
    let l : List EnvAccess := [.write 0x10010000#32 .byte 1#64, .alloc 1, .alloc (-1), .write 0x003FFFFC#32 .word 1#64]
    envAnswer (answering (.continues [] [] l)) = .continues [] [] l ∧
    (envAccesses l (answering (.continues [] [] l))).2 = some (.access .store 0x003FFFFC#32) ∧
    (∃ old t, allocateHeap 1 sample = some (old, t)) ∧ allocateHeap (-1) sample = none :=
  ⟨rfl, rfl, ⟨_, _, rfl⟩, rfl⟩

theorem test_wit_EnvironmentSeesNoMore :
    let t := withCsr 0x040#12 1#32 (sample.setPc 8#32)
    t.x = sample.x ∧ t.f = sample.f ∧ t.mem = sample.mem ∧ t.heapPtr = sample.heapPtr ∧ t.params.env = sample.params.env ∧
    t.draws = sample.draws :=
  ⟨rfl, rfl, rfl, rfl, rfl, rfl⟩

theorem test_wit_ReferenceEnvironment :
    sample.params.env = .reference ∧ (withX [(17#5, 10#32)] sample).getX 17#5 = 10#32 ∧
    (withX [(17#5, 93#32)] sample).getX 17#5 = 93#32 ∧ (sample.getX 17#5 ≠ 10#32 ∧ sample.getX 17#5 ≠ 93#32) := by decide

theorem test_wit_CsrWriteVariants :
    (0x045#12 ∉ [0x000#12, 0x001#12, 0x002#12, 0x003#12, 0x004#12, 0x005#12, 0x040#12, 0x041#12, 0x042#12, 0x043#12, 0x044#12,
      0xC00#12, 0xC01#12, 0xC02#12, 0xC80#12, 0xC81#12, 0xC82#12]) ∧
    (0x003#12 ≠ 0x004#12 ∧ ¬(0x003#12 ∈ [0x001#12, 0x002#12, 0x003#12] ∧ 0x004#12 ∈ [0x001#12, 0x002#12, 0x003#12])) := by
  decide

/-- `sample` with another controller. -/
abbrev controlled (c : Controller) : State := { sample with ctl := c }

/-- A trap registered at the word before `sample`'s `pc`. -/
abbrev trapped : State := controlled { sample.ctl with trapPending := true, trapCause := 5#32, trapPc := 0x003FFFFC#32 }

theorem test_wit_RaiseRegistersOrHalts : sample.ctl.trapPending = false ∧ trapped.ctl.trapPending = true := by decide

theorem test_wit_RegistrationIsClaimOnce :
    sample.ctl.extPending = false ∧ sample.ctl.tmrPending = false ∧
    (controlled { sample.ctl with extPending := true }).ctl.extPending = true ∧
    (controlled { sample.ctl with tmrPending := true }).ctl.tmrPending = true ∧
    ({ sample with agenda := [.registerExternal 1#32, .registerTimer 2#32] } : State).agenda =
      .registerExternal 1#32 :: [.registerTimer 2#32] ∧
    ({ sample with agenda := [.registerTimer 2#32] } : State).agenda = [.registerTimer 2#32] := by decide

/-- `sample` with interrupts enabled: `ustatus` 1, `uie` 0x111, `uip` as given, and a controller. -/
abbrev enabled (c : Controller) (ip : Word) : State :=
  { controlled c with csr := { sample.csr with ustatus := 1#32, uie := 0x111#32, uip := ip } }

/-- The six outcomes of the check. -/
theorem test_wit_CheckSelectsByPriority :
    let all := { sample.ctl with extPending := true, tmrPending := true }
    let tmr := { sample.ctl with tmrPending := true }
    (trapped.ctl.trapPending = true ∧ trapped.ctl.trapPc = trapped.pc - 4#32) ∧
    (trapped.ctl.trapPending = true ∧ trapped.ctl.trapPc ≠ (trapped.setPc 0#32).pc - 4#32) ∧
    (all.trapPending = false ∧ (enabled all 1#32).csr.ustatus.getLsbD 0 = true ∧ all.extPending = true ∧
      (enabled all 1#32).csr.uie.getLsbD 8 = true) ∧
    (tmr.extPending = false ∧ (enabled tmr 1#32).csr.uip.getLsbD 0 = true ∧ (enabled tmr 1#32).csr.uie.getLsbD 0 = true) ∧
    (tmr.tmrPending = true ∧ (enabled tmr 0#32).csr.uip.getLsbD 0 = false ∧ (enabled tmr 0#32).csr.uie.getLsbD 4 = true) ∧
    (sample.ctl.trapPending = false ∧ sample.csr.ustatus.getLsbD 0 = false) := by decide

/-- `sample` with a handler: URET at 0x00400100, `utvec` there with the given mode bits, interrupts enabled. -/
abbrev handled (c : Controller) (mode : Word) : State :=
  { enabled c 0#32 with
    mem := sample.mem.writeBytes 0x00400100 [0x73#8, 0x00#8, 0x20#8, 0x00#8]
    csr := { (enabled c 0#32).csr with utvec := 0x00400100#32 ||| mode } }

theorem handled_present : HandlerPresent (handled sample.ctl 0#32) ∧ HandlerPresent (handled sample.ctl 1#32) :=
  ⟨⟨rfl, ⟨.text, rfl⟩, by decide⟩, ⟨rfl, ⟨.text, rfl⟩, by decide⟩⟩

theorem sample_no_handler : ¬HandlerPresent sample := fun h => absurd h.1 (by decide)

/-- An interrupt with a reserved mode; a trap with that mode and a handler; no handler. -/
theorem test_wit_TrapEntry :
    (handled sample.ctl 1#32).csr.utvec &&& 0x3#32 ≠ 0#32 ∧ HandlerPresent (handled sample.ctl 1#32) ∧
    HandlerPresent (handled sample.ctl 0#32) ∧ (handled sample.ctl 0#32).csr.utvec &&& 0x3#32 = 0#32 ∧ ¬HandlerPresent sample :=
  ⟨by decide, handled_present.2, handled_present.1, by decide, sample_no_handler⟩

/-- `lw a0, 0(zero)` at 0x00400000, with and without a handler. -/
abbrev faulting (s : State) : State := { s with mem := s.mem.writeBytes 0x00400000 [0x03#8, 0x25#8, 0x00#8, 0x00#8] }

theorem test_wit_FaultsAreDeliveredPrecisely_handled :
    let s := faulting (handled sample.ctl 0#32)
    let s' := refreshUip s
    let t := raise 5#32 0#32 s'
    AboutToStep s ∧ Unlimited s ∧ NoEvent s ∧ fetch s.pc s = .ok 0x00002503#32 ∧ fetch (s.pc + 4#32) s = .ok 0#32 ∧
    check s = .nothing s' ∧ execWord exec 0x00002503#32 s' = .next t ∧ Raised 5#32 0#32 s' t ∧ HandlerPresent s :=
  ⟨⟨rfl, rfl, rfl, rfl⟩, ⟨rfl, rfl⟩, ⟨rfl, by decide⟩, rfl, rfl, rfl, rfl,
    ⟨rfl, rfl, rfl, rfl, rfl, ⟨rfl, rfl⟩, ⟨rfl, rfl⟩, fun _ => rfl, fun _ => rfl, ⟨rfl, rfl, rfl, rfl, rfl, rfl, rfl, rfl, rfl⟩,
      ⟨rfl, rfl, rfl⟩, fun _ => rfl, rfl, rfl, rfl, rfl⟩,
    ⟨rfl, ⟨.text, rfl⟩, by decide⟩⟩

theorem test_wit_FaultsAreDeliveredPrecisely_unhandled :
    let s := faulting sample
    let s' := refreshUip s
    let t := raise 5#32 0#32 s'
    AboutToStep s ∧ Unlimited s ∧ NoEvent s ∧ fetch s.pc s = .ok 0x00002503#32 ∧ fetch (s.pc + 4#32) s = .ok 0#32 ∧
    check s = .nothing s' ∧ execWord exec 0x00002503#32 s' = .next t ∧ Raised 5#32 0#32 s' t ∧ ¬HandlerPresent s :=
  ⟨⟨rfl, rfl, rfl, rfl⟩, ⟨rfl, rfl⟩, ⟨rfl, by decide⟩, rfl, rfl, rfl, rfl,
    ⟨rfl, rfl, rfl, rfl, rfl, ⟨rfl, rfl⟩, ⟨rfl, rfl⟩, fun _ => rfl, fun _ => rfl, ⟨rfl, rfl, rfl, rfl, rfl, rfl, rfl, rfl, rfl⟩,
      ⟨rfl, rfl, rfl⟩, fun _ => rfl, rfl, rfl, rfl, rfl⟩,
    fun h => absurd h.1 (by decide)⟩

/-- A running state that meets the invariant. -/
theorem sample_inv : Inv sample :=
  ⟨sample_wf, by decide, by decide, by decide, by decide, by decide, by decide, by decide, by decide, (by intro _ n h; cases h),
    fun h => absurd rfl h, List.nodup_nil⟩

/-- The timer interrupt of `handled`, taken. -/
abbrev ticking : State := handled { sample.ctl with tmrPending := true, tmrValue := 9#32 } 0#32

theorem ticking_inv : Inv ticking :=
  ⟨by decide, by decide, by decide, by decide, by decide, by decide, by decide, by decide, by decide, (by intro _ n h; cases h),
    fun h => absurd rfl h, List.nodup_nil⟩

theorem test_wit_InterruptsReturnToTheInterrupted :
    AboutToStep ticking ∧ Unlimited ticking ∧ Inv ticking ∧ fetch ticking.pc ticking = .ok 0x00500513#32 ∧
    (∃ s', check ticking = .event ⟨true, 0x80000004#32, 9#32, 0x00400000#32⟩ s') ∧ ticking.csr.utvec &&& 0x3#32 = 0#32 ∧
    fetch (ticking.csr.utvec &&& 0xFFFFFFFC#32) ticking = .ok 0x00200073#32 :=
  ⟨⟨rfl, rfl, rfl, rfl⟩, ⟨rfl, rfl⟩, ticking_inv, rfl, ⟨_, rfl⟩, by decide, rfl⟩

theorem test_wit_StepRunsDecodedInstruction :
    AboutToStep sample ∧ NoEvent sample ∧ resolve sample.params sample.heapPtr sample.pc .word .fetch = .ok .text ∧
    decodeBytes (sample.byteAt 0x00400000) (sample.byteAt 0x00400001) (sample.byteAt 0x00400002) (sample.byteAt 0x00400003) =
      .instr (.addi 10#5 0#5 5#12) :=
  ⟨about_running _ _, quiet_running _ _, rfl, by decide⟩

theorem test_wit_NullWordEndsTheRun :
    let s := running 0x00400000#32 0#32
    let e := { ticking with mem := [] }
    (AboutToStep s ∧ fetch s.pc s = .ok 0#32 ∧ ∃ s', check s = .nothing s') ∧
    (AboutToStep e ∧ fetch e.pc e = .ok 0#32 ∧ ∃ v s', check e = .event v s') :=
  ⟨⟨about_running _ _, rfl, ⟨_, rfl⟩⟩, ⟨⟨rfl, rfl, rfl, rfl⟩, rfl, ⟨_, _, rfl⟩⟩⟩

/-- The last byte below a word, a word of the data segment, a word of no segment. -/
theorem test_wit_FetchFaultsHalt :
    AboutToStep (sample.setPc 0x00400003#32) ∧ (sample.setPc 0x00400003#32).pc.toNat % 4 ≠ 0 ∧
    (sample.setPc 0x10000000#32).pc.toNat % 4 = 0 ∧
    segmentOf sample.params.memcfg sample.heapPtr (sample.setPc 0x10000000#32).pc.toNat ≠ some .text ∧
    (sample.setPc 0x003FFFFC#32).pc.toNat % 4 = 0 ∧
    segmentOf sample.params.memcfg sample.heapPtr (sample.setPc 0x003FFFFC#32).pc.toNat ≠ some .text :=
  ⟨⟨rfl, rfl, rfl, rfl⟩, by decide, by decide, by decide, by decide, by decide⟩

/-- `sample` with operations of outside agents waiting. -/
abbrev waiting (l : List PortOp) : State := { sample with agenda := l }

/-- `sample` with another run-control state. -/
abbrev inState (r : RunControl) : State := { sample with run := r }

theorem test_wit_PauseAndStopAtStepTop :
    (waiting [.pause]).agenda = [.pause] ∧ (waiting [.stop]).agenda = [.stop] ∧ sample.run.runState = .running ∧
    State.reset.run.runState ≠ .running ∧
    ((inState { sample.run with stopReq := true, pauseReq := true }).agenda = [] ∧
      (inState { sample.run with stopReq := true, pauseReq := true }).run.stopReq = true) ∧
    ((inState { sample.run with pauseReq := true }).run.stopReq = false ∧
      (inState { sample.run with pauseReq := true }).run.pauseReq = true) := by decide

/-- The breakpoint and the last step of the budget together; the last step alone; neither. -/
theorem test_wit_BudgetAndBreakpoints :
    (inState { sample.run with stepsLeft := some 1, breakpoints := [0x00400000#32] }).run.runState = .running ∧
    sample.pc ∈ [0x00400000#32] ∧ sample.pc ∉ sample.run.breakpoints ∧
    (inState { sample.run with stepsLeft := some 1 }).run.stepsLeft = some 1 ∧ sample.run.stepsLeft ≠ some 1 := by decide

theorem test_wit_StartCommand :
    (waiting [.start (-1) [0#32]]).agenda = [.start (-1) [0#32]] ∧ (waiting [.stepOnce]).agenda = [.stepOnce] ∧
    State.reset.run.runState = .stopped ∧ (halt .pause sample).run.runState = .paused ∧ sample.run.runState = .running ∧
    (halt .exception sample).run.runState = .terminated := by decide

theorem test_wit_ResetCommand : (waiting [.reset, .coreStep]).agenda = .reset :: [.coreStep] := by decide

/-- The first and the last byte of the text segment and the last of the stack. -/
abbrev exampleImage : List (Word × Byte) := [(0x00400000#32, 0x13#8), (0x0FFFFFFF#32, 1#8), (0x7FFFFFFF#32, 2#8)]

/-- An image inside the segments; a byte outside every segment; a running core. -/
theorem test_wit_LoadCommand :
    let s := { State.reset with agenda := [.load exampleImage 0x00400000#32] }
    s.agenda = [.load exampleImage 0x00400000#32] ∧ s.run.runState ≠ .running ∧
    (∀ p ∈ exampleImage, segmentOf s.params.memcfg s.params.memcfg.heapBase p.1.toNat ≠ none) ∧
    (exampleImage.map (·.1)).Nodup ∧ segmentOf s.params.memcfg s.params.memcfg.heapBase (0x003FFFFF#32).toNat = none ∧
    sample.run.runState = .running := by
  refine ⟨rfl, by decide, ?_, by decide, by decide, rfl⟩
  intro p hp
  simp only [List.mem_cons, List.not_mem_nil, or_false] at hp
  rcases hp with rfl | rfl | rfl <;> decide

theorem test_wit_ConfigurationSwitch :
    let s := { State.reset with agenda := [.setMemoryConfiguration .compactTextAtZero] }
    s.agenda = [.setMemoryConfiguration .compactTextAtZero] ∧ s.run.runState ≠ .running ∧ wfConfig .compactTextAtZero = true := by
  decide

/-- A query of each kind of value, of a core that is not RUNNING; one of a RUNNING core. -/
theorem test_query_reads :
    let reads (q : Query) : Option Answer := after (step { State.reset with agenda := [.query q] }) (fun t => t.answer)
    reads (.x 2#5) = some (.word 0x7FFFEFFC#32) ∧ reads (.x 0#5) = some (.word 0#32) ∧ reads (.f 31#5) = some (.double 0#64) ∧
    reads .pc = some (.word 0x00400000#32) ∧ reads (.csr 0xC82#12) = some (.word 0#32) ∧
    reads (.mem 0x10000000#32 .double) = some (.double 0#64) ∧ reads (.mem 0x003FFFFC#32 .word) = some .rejected ∧
    reads .runState = some (.runState .stopped) ∧
    after (step (waiting [.query .runState])) (fun t => t.answer) = some .rejected := by decide

/-- The bytes of the word at 0x00400000, the lowest address lowest. -/
theorem test_query_memory_little_endian :
    after (step { State.reset with agenda := [.query (.mem 0x00400000#32 .half)], mem := sample.mem }) (fun t => t.answer) =
      some (.double 0x0513#64) := by decide

theorem test_wit_HostEdits :
    let s := { State.reset with agenda := [.editX 0#5 1#32] }
    (waiting [.query .pc]).agenda = .query .pc :: [] ∧
    (∃ v, memRead 0xFFFFFFF8#32 .double State.reset = .ok v) ∧ (∃ e, memRead 0xFFFFFFFC#32 .double State.reset = .error e) ∧
    s.agenda = [.editX 0#5 1#32] ∧ s.run.runState ≠ .running ∧ sample.run.runState = .running ∧
    (∃ t, memWrite 0x10000000#32 .double 1#64 State.reset = .ok t) ∧
    (∃ e, memWrite 0x00400000#32 .word 1#64 State.reset = .error e) :=
  ⟨rfl, ⟨_, rfl⟩, ⟨_, rfl⟩, rfl, by decide, by decide, ⟨_, rfl⟩, ⟨_, rfl⟩⟩

/-- Each way a step stops. -/
theorem test_wit_StepStopsOnlyWhereReserved :
    faultOf (step (halt .exception sample)) = some .unhandledException ∧
    faultOf (step (halt .invariantViolation sample)) = some .invariantViolation ∧
    refusalOf (step (running 0x00400000#32 0x00000007#32)) = some .refusedOpcode ∧
    refusalOf (step (handled { sample.ctl with tmrPending := true } 1#32)) = some .reservedVectorMode ∧
    refusalOf (step { State.reset with agenda := [.setMemoryConfiguration { MemConfig.default with textBase := 4#32 }] }) =
      some .illFormedConfiguration ∧
    refusalOf (step { State.reset with agenda := [.load [(0#32, 1#8)] 0#32] }) = some .illFormedImage ∧
    refusalOf (step { running 0x00400000#32 0x00000007#32 with agenda := [.coreStep] }) = some .refusedOpcode := by
  refine ⟨by decide, by decide, by decide, by decide, by decide, by decide, by decide⟩

theorem test_wit_StepKeepsInvariant : Inv sample ∧ Inv ticking ∧ (∃ t, step sample = .next t) ∧ (∃ t, step ticking = .next t) :=
  ⟨sample_inv, ticking_inv, ⟨_, rfl⟩, ⟨_, rfl⟩⟩

/-- A pending trap that the check takes; the same with a host edit waiting; an edit of `pc` while no trap is pending. -/
theorem test_wit_TrapAssertionHoldsInEveryRun :
    (∀ v rest, trapped.agenda = .editPc v :: rest → trapped.ctl.trapPending = false) ∧ TrapInv trapped ∧
    trapped.ctl.trapPending = true ∧ (∃ t, step trapped = .next t) ∧
    (∃ t, step { trapped with agenda := [.editX 1#5 1#32] } = .next t) ∧
    (let s := { State.reset with agenda := [.editPc 8#32] }
     (∀ v rest, s.agenda = .editPc v :: rest → s.ctl.trapPending = false) ∧ TrapInv s ∧ ∃ t, step s = .next t) :=
  ⟨(fun _ _ h => nomatch h), (fun _ _ => by decide), rfl, ⟨_, rfl⟩, ⟨_, rfl⟩, (fun _ _ _ => rfl), (fun _ h => nomatch h), ⟨_, rfl⟩⟩

/-- With a trap pending, an edit of `pc` makes the next check's assertion fail (R412). -/
theorem test_edit_of_pc_breaks_the_assertion :
    after (step (trapped.setPc 0x00400004#32)) (fun t => t.run.haltReason) = some .invariantViolation := by decide

theorem test_wit_CoreStepFrame :
    sample.agenda = [] ∧ Inv sample ∧ (∃ t, step sample = .next t) ∧ State.reset.run.runState ≠ .running ∧
    sample.run.runState = .running ∧
    after (step (running 0x00400000#32 0#32)) (fun t => decide (t.run.runState ≠ .running)) = some true :=
  ⟨rfl, sample_inv, ⟨_, rfl⟩, by decide, by decide, by decide⟩

/-- `sw zero, 0(zero)` with register 0 as base; the last byte of the text segment. -/
theorem test_wit_TextIsProtected :
    sample.agenda = [] ∧ Inv sample ∧ sample.params.smcEnabled = false ∧ (∃ t, step sample = .next t) ∧
    segmentOf sample.params.memcfg sample.heapPtr 0x0FFFFFFF = some .text :=
  ⟨rfl, sample_inv, rfl, ⟨_, rfl⟩, by decide⟩

end Sys2Proof.Tests
end

section
/-! SUPPORT. Where a step stops (R11, R137, R362, R404, R405): no instruction does; the core's own step only at a refused word or
at an interrupt with a reserved vector mode; the others are an ended run and two operations of the host. -/

namespace Sys2Proof.Machine

/-! ## Instructions, words and trap entry -/

theorem loadTo_next (rd : RegIdx) (ea : Word) (w : Width) (g : Dword → Word) (s : State) :
    ∃ t, loadTo rd ea w g s = .next t := by
  unfold loadTo
  split <;> exact ⟨_, rfl⟩

theorem storeAt_next (ea : Word) (w : Width) (v : Word) (s : State) : ∃ t, storeAt ea w v s = .next t := by
  unfold storeAt
  split <;> exact ⟨_, rfl⟩

theorem csrUpdate_next (rd : RegIdx) (n : CsrNum) (g : Word → Option Word) (s : State) :
    ∃ t, csrUpdate rd n g s = .next t := by
  unfold csrUpdate
  dsimp only
  split <;> exact ⟨_, rfl⟩

/-- Every instruction answers a next state. -/
theorem exec_next (i : Instr) (s : State) : ∃ t, exec i s = .next t := by
  cases i with
  | lb | lh | lw | lbu | lhu => exact loadTo_next ..
  | sb | sh | sw => exact storeAt_next ..
  | csrrw | csrrs | csrrc | csrrwi | csrrsi | csrrci =>
    dsimp only [exec, execCsrrw, execCsrrs, execCsrrc, execCsrrwi, execCsrrsi, execCsrrci]
    exact csrUpdate_next ..
  | _ => exact ⟨_, rfl⟩

theorem execWord_of_refused {w : Word} (h : decode w = .refused) (s : State) :
    execWord exec w s = .refused .refusedOpcode := by
  unfold execWord
  rw [h]

/-- A word that is not refused executes (R307, R309). -/
theorem execWord_of_not_refused {w : Word} (h : decode w ≠ .refused) (s : State) : ∃ t, execWord exec w s = .next t := by
  unfold execWord
  split
  · exact ⟨_, rfl⟩
  · exact absurd ‹_› h
  · exact ⟨_, rfl⟩
  · exact exec_next _ s

theorem check_event_utvec {s t : State} {e : TrapEvent} (h : check s = .event e t) : t.csr.utvec = s.csr.utvec := by
  obtain ⟨-, ht, -⟩ := check_event h
  rw [ht]

/-! ## The step after the fetch -/

/-- Why a core that fetched the word `w` refuses its step: the word, with no event before it (R137), or the mode of the vector an
interrupt is taken through (R362). -/
inductive RefusedAfterFetch (w : Word) (s : State) : Refusal → Prop where
  | opcode (s' : State) (hd : decode w = .refused) (hc : check s = .nothing s') : RefusedAfterFetch w s .refusedOpcode
  | vector (e : TrapEvent) (s' : State) (hv : s.csr.utvec &&& 0x3#32 ≠ 0#32) (hc : check s = .event e s')
      (hi : e.isInterrupt = true) : RefusedAfterFetch w s .reservedVectorMode

theorem afterFetch_of_refused {w : Word} {s : State} {r : Refusal} (h : RefusedAfterFetch w s r) :
    afterFetch exec w s = .refused r := by
  unfold afterFetch
  cases h with
  | opcode s' hd hc => simp only [hc, execWord_of_refused hd, onNext]
  | vector e s' hv hc hi =>
    rw [← check_event_utvec hc] at hv
    rcases enterTrap_cases e s' with ⟨-, -, h⟩ | ⟨hn, -⟩ | ⟨hn, -⟩
    · simp only [hc, h, onNext]
    · exact absurd ⟨hi, hv⟩ hn
    · exact absurd ⟨hi, hv⟩ hn

/-- After the fetch a step answers a next state, or is refused for one of the two reasons. -/
theorem afterFetch_cases (w : Word) (s : State) :
    (∃ t, afterFetch exec w s = .next t) ∨ ∃ r, RefusedAfterFetch w s r ∧ afterFetch exec w s = .refused r := by
  have refused {r : Refusal} (h : RefusedAfterFetch w s r) :
      ∃ r, RefusedAfterFetch w s r ∧ afterFetch exec w s = .refused r := ⟨r, h, afterFetch_of_refused h⟩
  cases hc : check s with
  | violation s' => exact .inl ⟨s', by simp only [afterFetch, hc]⟩
  | event e s' =>
    rcases enterTrap_cases e s' with ⟨hi, hv, -⟩ | ⟨-, -, h⟩ | ⟨-, -, h⟩
    · exact .inr (refused (.vector e s' (check_event_utvec hc ▸ hv) hc hi))
    all_goals exact .inl ⟨finishStep _, by simp only [afterFetch, hc, h, onNext]; rfl⟩
  | nothing s' =>
    by_cases hd : decode w = .refused
    · exact .inr (refused (.opcode s' hd hc))
    · obtain ⟨t, h⟩ := execWord_of_not_refused hd s'
      exact .inl ⟨finishStep t, by simp only [afterFetch, hc, h, onNext]⟩

/-! ## The step of a running core -/

/-- Why a RUNNING core refuses its step: no request halts it, the fetch succeeds, and what follows is refused. -/
def CoreRefuses (s : State) (r : Refusal) : Prop :=
  s.run.stopReq = false ∧ s.run.pauseReq = false ∧ ∃ w, fetch s.pc s = .ok w ∧ RefusedAfterFetch w s r

theorem runCore_of_refuses {s : State} {r : Refusal} (h : CoreRefuses s r) : runCore exec s = .refused r := by
  obtain ⟨hs, hp, w, hf, hr⟩ := h
  rw [runCore_of_ok hs hp hf, afterFetch_of_refused hr]

/-- A RUNNING core's step answers a next state or is refused; it never faults. -/
theorem runCore_cases (s : State) :
    (∃ t, runCore exec s = .next t) ∨ ∃ r, CoreRefuses s r ∧ runCore exec s = .refused r := by
  cases hs : s.run.stopReq
  · cases hp : s.run.pauseReq
    · cases hf : fetch s.pc s with
      | error e =>
        exact .inl ⟨haltException s.pc e.cause e.value s, by simp only [runCore, hs, hp, hf, Bool.false_eq_true, if_false]⟩
      | ok w =>
        rw [runCore_of_ok hs hp hf]
        rcases afterFetch_cases w s with ⟨t, h⟩ | ⟨r, hr, h⟩
        · exact .inl ⟨t, h⟩
        · exact .inr ⟨r, ⟨hs, hp, w, hf, hr⟩, h⟩
    · exact .inl ⟨halt .pause s, by simp only [runCore, hs, hp, Bool.false_eq_true, if_false, if_true]⟩
  · exact .inl ⟨halt .stop s, by simp only [runCore, hs, if_true]⟩

/-! ## The agenda plays no part in the core's step -/

/-- The outcome of a check with another agenda behind it. -/
def CheckResult.withAgenda (l : List PortOp) : CheckResult → CheckResult
  | .nothing s => .nothing { s with agenda := l }
  | .event e s => .event e { s with agenda := l }
  | .violation s => .violation { s with agenda := l }

theorem check_withAgenda (l : List PortOp) (s : State) : check { s with agenda := l } = (check s).withAgenda l := by
  unfold check claimTrap claimExternal claimTimer
  simp only [apply_ite (CheckResult.withAgenda l)]
  refine ite_congr rfl (fun _ => ?_) fun _ => ite_congr rfl (fun _ => ?_) fun _ => ite_congr rfl (fun _ => rfl) fun _ =>
    ite_congr rfl (fun _ => ?_) fun _ => rfl
  all_goals split_ifs <;> rfl

theorem RefusedAfterFetch.withAgenda {w : Word} {s : State} {r : Refusal} (h : RefusedAfterFetch w s r) (l : List PortOp) :
    RefusedAfterFetch w { s with agenda := l } r := by
  cases h with
  | opcode s' hd hc => exact .opcode _ hd (by rw [check_withAgenda, hc]; rfl)
  | vector e s' hv hc hi => exact .vector e _ hv (by rw [check_withAgenda, hc]; rfl) hi

theorem coreRefuses_withAgenda (l : List PortOp) (s : State) (r : Refusal) :
    CoreRefuses { s with agenda := l } r ↔ CoreRefuses s r := by
  constructor
  · rintro ⟨hs, hp, w, hf, hr⟩
    exact ⟨hs, hp, w, hf, hr.withAgenda s.agenda⟩
  · rintro ⟨hs, hp, w, hf, hr⟩
    exact ⟨hs, hp, w, hf, hr.withAgenda l⟩

/-! ## The machine's step -/

theorem step_of_idle {s : State} (ha : s.agenda = []) (hr : s.run.runState ≠ .running) : step s = idleStep s := by
  unfold step stepWith
  simp only [ha, if_neg (mt (isRunning_iff s).1 hr)]

/-- A RUNNING core whose turn it is takes its step. -/
theorem step_of_turn {s : State} (ha : s.agenda = [] ∨ ∃ rest, s.agenda = .coreStep :: rest) (hr : s.run.runState = .running) :
    step s = runCore exec { s with agenda := s.agenda.tail } := by
  rcases ha with ha | ⟨rest, ha⟩
  · have hs : { s with agenda := s.agenda.tail } = s := by rw [ha, List.tail_nil, ← ha]
    rw [step_of_running ha hr, hs]
  · rw [step_of_port ha, ha]
    exact if_pos ((isRunning_iff _).2 hr)

theorem imageInSegments_eq_false (c : MemConfig) (image : List (Word × Byte)) :
    imageInSegments c image = false ↔ ∃ p ∈ image, segmentOf c c.heapBase p.1.toNat = none := by
  simp [imageInSegments]

/-- The host's operation at hand is one the model refuses, with the reason (R404, R405). -/
inductive HostRefused (s : State) : Refusal → Prop where
  | configuration (c : MemConfig) (rest : List PortOp) (hr : s.run.runState ≠ .running)
      (ha : s.agenda = .setMemoryConfiguration c :: rest) (hc : wfConfig c = false) : HostRefused s .illFormedConfiguration
  | image (im : List (Word × Byte)) (en : Word) (rest : List PortOp) (hr : s.run.runState ≠ .running)
      (ha : s.agenda = .load im en :: rest) (hi : imageInSegments s.params.memcfg im = false) : HostRefused s .illFormedImage

theorem step_of_hostRefused {s : State} {r : Refusal} (h : HostRefused s r) : step s = .refused r := by
  cases h with
  | configuration c rest hr ha hc => rw [step_of_port ha]; simp [applyPort, isRunning, hr, hc]
  | image im en rest hr ha hi => rw [step_of_port ha]; simp [applyPort, isRunning, hr, hi]

/-- Everything a step can be: the turn of a RUNNING core, an idle core, an operation refused, or a next state. -/
theorem step_cases (s : State) :
    ((s.agenda = [] ∨ ∃ rest, s.agenda = .coreStep :: rest) ∧ s.run.runState = .running) ∨
    (s.agenda = [] ∧ s.run.runState ≠ .running) ∨
    (∃ r, HostRefused s r) ∨
    (s.agenda ≠ [] ∧ ∃ t, step s = .next t) := by
  cases ha : s.agenda with
  | nil =>
    by_cases hr : s.run.runState = .running
    · exact .inl ⟨.inl rfl, hr⟩
    · exact .inr (.inl ⟨rfl, hr⟩)
  | cons op rest =>
    have next {t : State} (h : applyPort exec op { s with agenda := rest } = .next t) :
        op :: rest ≠ [] ∧ ∃ t, step s = .next t :=
      ⟨nofun, t, by rw [step_of_port ha, h]⟩
    rcases applyPort_cases op { s with agenda := rest } with ⟨rfl, hr, -⟩ | ⟨-, -, h⟩ | ⟨im, en, rfl, hr, hi, -⟩ |
      ⟨c, rfl, hr, hc, -⟩ | ⟨-, a, u, -, h⟩
    · exact .inl ⟨.inr ⟨rest, rfl⟩, hr⟩
    · exact .inr (.inr (.inr (next h)))
    · exact .inr (.inr (.inl ⟨_, .image im en rest hr ha hi⟩))
    · exact .inr (.inr (.inl ⟨_, .configuration c rest hr ha hc⟩))
    · exact .inr (.inr (.inr (next h)))

/-- An idle core's step faults exactly after a run that ended with one of the two reasons of R11 (b). -/
theorem idleStep_eq_fault (s : State) (f : Fault) :
    idleStep s = .fault f ↔ s.run.runState = .terminated ∧
      ((f = .unhandledException ∧ s.run.haltReason = .exception) ∨
        (f = .invariantViolation ∧ s.run.haltReason = .invariantViolation)) := by
  unfold idleStep
  split_ifs with he hv
  · simp [he, eq_comm]
  · simp [hv, eq_comm]
  · simp only [false_iff]
    rintro ⟨ht, ⟨-, h⟩ | ⟨-, h⟩⟩
    · exact he ⟨ht, h⟩
    · exact hv ⟨ht, h⟩

theorem idleStep_ne_refused (s : State) (r : Refusal) : idleStep s ≠ .refused r := by
  unfold idleStep
  split_ifs <;> exact nofun

/-- A step faults exactly where an idle core's own step does. -/
theorem step_eq_fault (s : State) (f : Fault) :
    step s = .fault f ↔ s.agenda = [] ∧ s.run.runState ≠ .running ∧ idleStep s = .fault f := by
  constructor
  · intro h
    rcases step_cases s with ⟨ht, hr⟩ | ⟨ha, hr⟩ | ⟨r, hr⟩ | ⟨-, t, hn⟩
    · rw [step_of_turn ht hr] at h
      rcases runCore_cases { s with agenda := s.agenda.tail } with ⟨t, hn⟩ | ⟨r, -, hn⟩ <;> rw [hn] at h <;> cases h
    · exact ⟨ha, hr, (step_of_idle ha hr).symm.trans h⟩
    · rw [step_of_hostRefused hr] at h; cases h
    · rw [hn] at h; cases h
  · rintro ⟨ha, hr, h⟩
    rw [step_of_idle ha hr, h]

/-- A step is refused exactly on the core's turn, by the core, or on the host's, by the operation at hand. -/
theorem step_eq_refused (s : State) (r : Refusal) :
    step s = .refused r ↔
      (((s.agenda = [] ∨ ∃ rest, s.agenda = .coreStep :: rest) ∧ s.run.runState = .running) ∧ CoreRefuses s r) ∨
      HostRefused s r := by
  constructor
  · intro h
    rcases step_cases s with ⟨ht, hr⟩ | ⟨ha, hr⟩ | ⟨r', hr⟩ | ⟨-, t, hn⟩
    · rw [step_of_turn ht hr] at h
      rcases runCore_cases { s with agenda := s.agenda.tail } with ⟨t, hn⟩ | ⟨r', hc, hn⟩ <;> rw [hn] at h <;> cases h
      exact .inl ⟨⟨ht, hr⟩, (coreRefuses_withAgenda _ s r).1 hc⟩
    · rw [step_of_idle ha hr] at h
      exact absurd h (idleStep_ne_refused s r)
    · rw [step_of_hostRefused hr] at h
      cases h
      exact .inr hr
    · rw [hn] at h; cases h
  · rintro (⟨⟨ht, hr⟩, hc⟩ | hh)
    · rw [step_of_turn ht hr]
      exact runCore_of_refuses ((coreRefuses_withAgenda _ s r).2 hc)
    · exact step_of_hostRefused hh

/-- Settles O55: a step stops exactly where an idle core's does, where the core refuses on its turn, and where the host's
operation is refused. -/
theorem stepStopsOnlyWhereReserved : Obligations.StepStopsOnlyWhereReserved := by
  refine fun s => ⟨fun f => ?_, fun r => ?_⟩
  · rw [step_eq_fault, idleStep_eq_fault]
    constructor
    · rintro ⟨ha, -, h⟩
      exact ⟨ha, h⟩
    · rintro ⟨ha, ht, h⟩
      exact ⟨ha, by rw [ht]; nofun, ht, h⟩
  · rw [step_eq_refused]
    constructor
    · rintro (⟨⟨ht, hr⟩, hs, hp, w, hf, ⟨s', hd, hc⟩ | ⟨e, s', hv, hc, hi⟩⟩ | ⟨c, rest, hr, ha, hc⟩ |
        ⟨im, en, rest, hr, ha, hi⟩)
      · exact .inl ⟨rfl, ⟨ht, hr, hs, hp⟩, ⟨w, hf, hd⟩, s', hc⟩
      · exact .inr (.inl ⟨rfl, ⟨ht, hr, hs, hp⟩, ⟨w, hf⟩, hv, e, s', hc, hi⟩)
      · exact .inr (.inr (.inl ⟨rfl, hr, c, rest, ha, hc⟩))
      · exact .inr (.inr (.inr ⟨rfl, hr, im, en, rest, ha, (imageInSegments_eq_false _ im).1 hi⟩))
    · rintro (⟨rfl, ⟨ht, hr, hs, hp⟩, ⟨w, hf, hd⟩, s', hc⟩ |
        ⟨rfl, ⟨ht, hr, hs, hp⟩, ⟨w, hf⟩, hv, e, s', hc, hi⟩ | ⟨rfl, hr, c, rest, ha, hc⟩ | ⟨rfl, hr, im, en, rest, ha, hi⟩)
      · exact .inl ⟨⟨ht, hr⟩, hs, hp, w, hf, .opcode s' hd hc⟩
      · exact .inl ⟨⟨ht, hr⟩, hs, hp, w, hf, .vector e s' hv hc hi⟩
      · exact .inr (.configuration c rest hr ha hc)
      · exact .inr (.image im en rest hr ha ((imageInSegments_eq_false _ im).2 hi))

end Sys2Proof.Machine
end

section
/-! SUPPORT. What no step of the core itself changes (R5, R95, R99, R300, R303, R312, R52): a relation every operation of a step
satisfies, closed under composition, which counts the completed instructions. -/

namespace Sys2Proof.Machine

/-! ## The relation -/

/-- From `s` to `t` the core kept its parameters and its agenda, did not lower the heap pointer, counted `n` instructions, and kept
its run state and its reason or took the run state of the reason it recorded. -/
structure CoreFrame (n : Nat) (s t : State) : Prop where
  parameters : t.params = s.params
  agenda : t.agenda = s.agenda
  heap : s.heapPtr.toNat ≤ t.heapPtr.toNat
  cycle : t.csr.cycle64 = s.csr.cycle64 + BitVec.ofNat 64 n
  instret : t.csr.instret64 = s.csr.instret64 + BitVec.ofNat 64 n
  time : n = 0 → t.csr.time64 = s.csr.time64
  ends : (t.run.runState = s.run.runState ∧ t.run.haltReason = s.run.haltReason) ∨ t.run.runState = haltState t.run.haltReason

theorem CoreFrame.trans {m n : Nat} {s t u : State} (h : CoreFrame m s t) (k : CoreFrame n t u) : CoreFrame (m + n) s u where
  parameters := k.parameters.trans h.parameters
  agenda := k.agenda.trans h.agenda
  heap := h.heap.trans k.heap
  cycle := by rw [k.cycle, h.cycle, BitVec.ofNat_add, BitVec.add_assoc]
  instret := by rw [k.instret, h.instret, BitVec.ofNat_add, BitVec.add_assoc]
  time := fun h0 => (k.time (by omega)).trans (h.time (by omega))
  ends := by
    rcases k.ends with ⟨hq, hr⟩ | hk
    · rw [hq, hr]
      exact h.ends
    · exact .inr hk

/-- `trans` after an operation that counts nothing. -/
theorem CoreFrame.after {n : Nat} {s t u : State} (k : CoreFrame n t u) (h : CoreFrame 0 s t) : CoreFrame n s u :=
  Nat.zero_add n ▸ h.trans k

/-- A change of the program state that leaves the counters and the run alone. -/
theorem coreFrame_of_same {s t : State} (hp : t.params = s.params) (ha : t.agenda = s.agenda)
    (hh : s.heapPtr.toNat ≤ t.heapPtr.toNat)
    (hc : SameCounters s t) (hr : t.run = s.run) : CoreFrame 0 s t where
  parameters := hp
  agenda := ha
  heap := hh
  cycle := hc.cycle.trans (BitVec.add_zero _).symm
  instret := hc.instret.trans (BitVec.add_zero _).symm
  time := fun _ => hc.time
  ends := .inl (by rw [hr]; exact ⟨rfl, rfl⟩)

theorem CoreFrame.refl (s : State) : CoreFrame 0 s s := coreFrame_of_same rfl rfl le_rfl ⟨rfl, rfl, rfl⟩ rfl

/-! ## The operations of a step -/

theorem coreFrame_setX (i : RegIdx) (v : Word) (s : State) : CoreFrame 0 s (s.setX i v) :=
  coreFrame_of_same (by simp) (by simp) (by simp) ⟨by simp, by simp, by simp⟩ (by simp)

theorem coreFrame_csrWrite (n : CsrNum) (v : Word) (s : State) : CoreFrame 0 s (csrWrite n v s) :=
  coreFrame_of_same (by simp) (by simp) (by simp) ⟨by simp, by simp, by simp⟩ (by simp)

theorem coreFrame_csrPut (c : CsrName) (v : Word) (s : State) : CoreFrame 0 s (csrPut c v s) :=
  coreFrame_of_same (by simp) (by simp) (by simp) ⟨by simp, by simp, by simp⟩ (by simp)

theorem coreFrame_setPc (a : Word) (s : State) : CoreFrame 0 s (s.setPc a) :=
  coreFrame_of_same rfl rfl le_rfl ⟨rfl, rfl, rfl⟩ rfl

theorem coreFrame_count (s : State) : CoreFrame 1 s (count s) where
  parameters := rfl
  agenda := rfl
  heap := le_rfl
  cycle := rfl
  instret := rfl
  time := nofun
  ends := .inl ⟨rfl, rfl⟩

theorem coreFrame_completeAt (a : Word) (s : State) : CoreFrame 1 s (completeAt a s) :=
  (coreFrame_count _).after (coreFrame_setPc a s)

theorem coreFrame_complete (s : State) : CoreFrame 1 s (complete s) := coreFrame_completeAt (s.pc + 4#32) s

theorem coreFrame_halt (r : HaltReason) (s : State) : CoreFrame 0 s (halt r s) where
  parameters := rfl
  agenda := rfl
  heap := le_rfl
  cycle := (BitVec.add_zero _).symm
  instret := (BitVec.add_zero _).symm
  time := fun _ => rfl
  ends := .inr rfl

/-- A halt with its record: the record alone changes nothing the relation speaks of. -/
theorem coreFrame_haltException (p c v : Word) (s : State) : CoreFrame 0 s (haltException p c v s) :=
  { coreFrame_halt .exception s with ends := .inr rfl }

theorem coreFrame_haltExit (c : Word) (s : State) : CoreFrame 0 s (haltExit c s) :=
  { coreFrame_halt .normalTermination s with ends := .inr rfl }

theorem coreFrame_raise (c v : Word) (s : State) : CoreFrame 0 s (raise c v s) := by
  cases h : s.ctl.trapPending
  · rw [raise_of_not_pending h]
    exact coreFrame_of_same rfl rfl le_rfl ⟨rfl, rfl, rfl⟩ rfl
  · rw [raise_of_pending h]
    exact coreFrame_haltException ..

theorem coreFrame_memWrite {a : Word} {w : Width} {v : Dword} {s t : State} (h : memWrite a w v s = .ok t) : CoreFrame 0 s t := by
  obtain ⟨-, rfl⟩ := memWrite_ok h
  exact coreFrame_of_same rfl rfl le_rfl ⟨rfl, rfl, rfl⟩ rfl

/-- An allocation raises the heap pointer (R95). -/
theorem coreFrame_allocateHeap {n : Int} {s t : State} {old : Word} (h : allocateHeap n s = some (old, t)) : CoreFrame 0 s t := by
  have hh := allocateHeap_heapPtr h
  have hn := le_roundUp4 n
  obtain ⟨h0, -, -, -, rfl⟩ := allocateHeap_some h
  exact coreFrame_of_same rfl rfl (by omega) ⟨rfl, rfl, rfl⟩ rfl

theorem coreFrame_envAccesses (l : List EnvAccess) (s : State) : CoreFrame 0 s (envAccesses l s).1 :=
  envAccesses_keeps (P := CoreFrame 0 s) (fun _ _ _ _ _ h hw => (coreFrame_memWrite hw).after h)
    (fun _ _ _ _ h ha => (coreFrame_allocateHeap ha).after h) l (.refl s)

theorem coreFrame_applyXs (l : List (RegIdx × Word)) (s : State) : CoreFrame 0 s (applyXs l s) := by
  rw [applyXs_frame l s]
  exact coreFrame_of_same rfl rfl le_rfl ⟨rfl, rfl, rfl⟩ rfl

theorem coreFrame_applyFs (l : List (RegIdx × Dword)) (s : State) : CoreFrame 0 s (applyFs l s) := by
  rw [applyFs_frame l s]
  exact coreFrame_of_same rfl rfl le_rfl ⟨rfl, rfl, rfl⟩ rfl

theorem coreFrame_restoreStatus (s : State) : CoreFrame 0 s (restoreStatus s) := by
  unfold restoreStatus
  dsimp only
  split_ifs <;> exact (coreFrame_csrPut ..).after (coreFrame_csrPut ..)

/-! ## A step -/

/-- An operation of a step that counts at most one instruction. -/
def CoreFrameOnce (s t : State) : Prop := ∃ n ≤ 1, CoreFrame n s t

theorem CoreFrame.none {s t : State} (h : CoreFrame 0 s t) : CoreFrameOnce s t := ⟨0, by decide, h⟩

theorem CoreFrame.once {s t : State} (h : CoreFrame 1 s t) : CoreFrameOnce s t := ⟨1, le_rfl, h⟩

/-- The environment's call counts an instruction exactly when it continues with every access done (R272, R273). -/
theorem coreFrameOnce_applyEnv (o : EnvOutcome) (s : State) : CoreFrameOnce s (applyEnv o s) := by
  rcases applyEnv_cases o s with ⟨xs, fs, l, -, -, h⟩ | ⟨xs, fs, l, e, -, -, h⟩ |
    ⟨code, -, h⟩ | ⟨cause, value, -, h⟩ <;> rw [h]
  · exact ((((coreFrame_complete _).after (coreFrame_applyFs ..)).after (coreFrame_applyXs ..)).after
      (coreFrame_envAccesses l s)).once
  · exact ((coreFrame_haltException ..).after (coreFrame_envAccesses l s)).none
  · exact (coreFrame_haltExit ..).none
  · exact (coreFrame_haltException ..).none

theorem InstrEffect.coreFrameOnce {s t : State} (h : InstrEffect s t) : CoreFrameOnce s t := by
  cases h with
  | wrote rd v => exact ((coreFrame_complete _).after (coreFrame_setX rd v s)).once
  | jumped rd v target => exact ((coreFrame_completeAt target _).after (coreFrame_setX rd v s)).once
  | stored ea w v m hm => exact ((coreFrame_complete m).after (coreFrame_memWrite hm)).once
  | raised e => exact (coreFrame_raise ..).none
  | environment o => exact coreFrameOnce_applyEnv o s
  | paused => exact ((coreFrame_complete s).trans (coreFrame_halt .breakpoint _)).once
  | returned => exact ((coreFrame_completeAt _ _).after (coreFrame_restoreStatus s)).once
  | wroteCsr rd n v u =>
    exact (((coreFrame_complete _).after (coreFrame_setX rd u _)).after (coreFrame_csrWrite n v s)).once

theorem coreFrameOnce_execWord {w : Word} {s t : State} (h : execWord exec w s = .next t) : CoreFrameOnce s t := by
  rcases execWord_next h with ⟨-, rfl⟩ | ⟨-, rfl⟩ | ⟨i, -, hi⟩
  · exact (coreFrame_halt ..).none
  · exact (coreFrame_raise ..).none
  · exact (exec_effect hi).coreFrameOnce

theorem coreFrame_check_event {e : TrapEvent} {s t : State} (h : check s = .event e t) : CoreFrame 0 s t := by
  obtain ⟨-, ht, -⟩ := check_event h
  rw [ht]
  exact coreFrame_of_same rfl rfl le_rfl ⟨rfl, rfl, rfl⟩ rfl

theorem coreFrame_saveTrap (e : TrapEvent) (s : State) : CoreFrame 0 s (saveTrap e s) :=
  coreFrame_of_same rfl rfl le_rfl ⟨rfl, rfl, rfl⟩ rfl

theorem coreFrame_enterTrap {e : TrapEvent} {s t : State} (h : enterTrap e s = .next t) : CoreFrame 0 s t := by
  rcases enterTrap_cases e s with ⟨-, -, hr⟩ | ⟨-, -, hn⟩ | ⟨-, -, hn⟩
  · rw [hr] at h; cases h
  · rw [hn] at h
    cases h
    exact (((coreFrame_setPc ..).after (coreFrame_csrPut ..)).after (coreFrame_csrPut ..)).after (coreFrame_saveTrap e s)
  · rw [hn] at h
    cases h
    exact (coreFrame_haltException ..).after (coreFrame_saveTrap e s)

theorem coreFrame_countdown (s : State) : CoreFrame 0 s (countdown s) := { CoreFrame.refl s with ends := .inl ⟨rfl, rfl⟩ }

theorem coreFrame_finishStep (s : State) : CoreFrame 0 s (finishStep s) := by
  rcases finishStep_cases s with ⟨-, h⟩ | ⟨-, -, h⟩ | ⟨-, -, -, h⟩ | ⟨-, -, -, h⟩ <;> rw [h]
  · exact .refl s
  · exact (coreFrame_halt ..).after (coreFrame_countdown s)
  · exact (coreFrame_halt ..).after (coreFrame_countdown s)
  · exact coreFrame_countdown s

/-- A RUNNING core's step: every way it ends is in the relation, and only the executed word counts. -/
theorem coreFrameOnce_runCore {s t : State} (h : runCore exec s = .next t) : CoreFrameOnce s t := by
  rcases runCore_next h with ⟨-, rfl⟩ | ⟨-, -, rfl⟩ | ⟨-, -, ⟨e, -, rfl⟩ | ⟨w, -, ⟨s', hc, rfl⟩ |
    ⟨e, s', u, hc, hu, rfl⟩ | ⟨s', u, hc, hu, rfl⟩⟩⟩
  · exact (coreFrame_halt ..).none
  · exact (coreFrame_halt ..).none
  · exact (coreFrame_haltException ..).none
  · obtain ⟨-, -, rfl⟩ := check_violation hc
    exact (coreFrame_halt ..).none
  · exact (((coreFrame_finishStep u).after (coreFrame_enterTrap hu)).after (coreFrame_check_event hc)).none
  · obtain ⟨-, rfl⟩ := check_nothing hc
    obtain ⟨n, hn, hw⟩ := coreFrameOnce_execWord hu
    exact ⟨n, hn, (hw.after (coreFrame_csrPut ..)).trans (coreFrame_finishStep u)⟩

theorem CoreFrameOnce.counters {s t : State} (h : CoreFrameOnce s t) :
    SameCounters s t ∨ (t.csr.cycle64 = s.csr.cycle64 + 1#64 ∧ t.csr.instret64 = s.csr.instret64 + 1#64) := by
  obtain ⟨n, hn, hf⟩ := h
  interval_cases n
  · exact .inl ⟨hf.cycle.trans (BitVec.add_zero _), hf.time rfl, hf.instret.trans (BitVec.add_zero _)⟩
  · exact .inr ⟨hf.cycle, hf.instret⟩

/-- Settles O59: an idle core's step is the identity, and a RUNNING core's is in the relation `CoreFrame`. -/
theorem coreStepFrame : Obligations.CoreStepFrame := by
  intro s t ha _ h
  rcases step_next h with ⟨-, hr, hc⟩ | ⟨-, hr, rfl⟩ | ⟨op, rest, ho, -⟩
  · have hk := (coreFrameOnce_runCore hc).counters
    obtain ⟨n, -, hf⟩ := coreFrameOnce_runCore hc
    refine ⟨hf.parameters, hf.agenda.trans ha, hf.heap, hk, fun hn => absurd hr hn, fun _ hn => ?_⟩
    exact hf.ends.resolve_left fun ⟨hs, _⟩ => hn (hs.trans hr)
  · exact ⟨rfl, ha, le_rfl, .inl ⟨rfl, rfl, rfl⟩, fun _ => rfl, fun hn => absurd hn hr⟩
  · rw [ha] at ho; cases ho

end Sys2Proof.Machine
end

section
/-! SUPPORT. The invariant of the machine (R22, R35, R39, R42, R52, R56, R83, R95, R303, R313, R323, R324): it holds at the reset
values, and every operation of a step and of a port keeps it. -/

namespace Sys2Proof.Machine

/-! ## The program state -/

theorem Inv.setX {s : State} (h : Inv s) (i : RegIdx) (v : Word) : Inv (s.setX i v) := by
  unfold State.setX
  split
  · exact h
  · next hi =>
    have hn : i.toNat ≠ 0 := fun h0 => hi (BitVec.eq_of_toNat_eq h0)
    exact { h with zeroCell := (Vector.getElem_set_ne i.isLt (by decide) hn).trans h.zeroCell }

theorem Inv.setF {s : State} (h : Inv s) (i : RegIdx) (v : Dword) : Inv (s.setF i v) := { h with }

theorem Inv.setPc {s : State} (h : Inv s) (a : Word) : Inv (s.setPc a) := { h with }

theorem Inv.withController {s : State} (h : Inv s) (c : Controller) : Inv { s with ctl := c } := { h with }

theorem Inv.withAgenda {s : State} (h : Inv s) (l : List PortOp) : Inv { s with agenda := l } := { h with }

theorem Inv.withAnswer {s : State} (h : Inv s) (a : Answer) : Inv { s with answer := a } := { h with }

/-- A completed instruction advances the two counters together (R52, R312). -/
theorem Inv.completeAt {s : State} (h : Inv s) (a : Word) : Inv (completeAt a s) :=
  { h with counters := congrArg (· + 1#64) h.counters }

theorem Inv.complete {s : State} (h : Inv s) : Inv (complete s) := h.completeAt (s.pc + 4#32)

theorem csrPut_frame (c : CsrName) (v : Word) (s : State) : csrPut c v s = { s with csr := (csrPut c v s).csr } := by
  cases c <;> rfl

/-- A CSR write keeps the protected bits and reaches no counter (R33, R53). -/
theorem Inv.csrPut {s : State} (h : Inv s) (c : CsrName) (v : Word) : Inv (csrPut c v s) := by
  rw [csrPut_frame]
  exact { h with
    ustatusReserved := (csrPut_ustatus_reserved c v s).trans h.ustatusReserved
    fcsrReserved := (csrPut_fcsr_reserved c v s).trans h.fcsrReserved
    counters := by simpa using h.counters }

theorem Inv.csrWrite {s : State} (h : Inv s) (n : CsrNum) (v : Word) : Inv (csrWrite n v s) := by
  unfold Machine.csrWrite
  split
  · exact h.csrPut _ v
  · exact h

/-- A store stays canonical and inside the address space (R56, R80, R89). -/
theorem Inv.memWrite {s t : State} {a : Word} {w : Width} {v : Dword} (h : Inv s) (hw : memWrite a w v s = .ok t) : Inv t := by
  obtain ⟨hb, rfl⟩ := memWrite_ok hw
  exact { h with
    memory := Memory.wf_writeBytes h.memory ..
    addressSpace := Memory.below_writeBytes h.addressSpace _ _ (by simpa using hb) }

/-- An allocation keeps the heap pointer aligned and in its bounds (R95). -/
theorem Inv.allocateHeap {s t : State} {n : Int} {old : Word} (h : Inv s) (ha : allocateHeap n s = some (old, t)) : Inv t := by
  have hp := allocateHeap_heapPtr ha
  have h4 := roundUp4_mod n
  have hn := le_roundUp4 n
  obtain ⟨h0, -, -, hmax, ht⟩ := allocateHeap_some ha
  obtain ⟨hlo, -⟩ := h.heapBounds
  have hbounds : s.params.memcfg.heapBase.toNat ≤ t.heapPtr.toNat ∧ t.heapPtr.toNat ≤ s.params.memcfg.stackBase.toNat + 4 := by
    omega
  have haligned : t.heapPtr.toNat % 4 = 0 := by
    have := h.heapAligned
    omega
  subst ht
  exact { h with heapBounds := hbounds, heapAligned := haligned }

/-! ## Ends of an instruction -/

/-- A halt leaves a core that does not run and has no request (R303). -/
theorem Inv.halt {s : State} (h : Inv s) (r : HaltReason) : Inv (halt r s) :=
  { h with
    budget := by cases r <;> exact nofun
    requests := fun _ => ⟨rfl, rfl⟩ }

theorem Inv.haltException {s : State} (h : Inv s) (p c v : Word) : Inv (haltException p c v s) := { h.halt .exception with }

theorem Inv.haltExit {s : State} (h : Inv s) (c : Word) : Inv (haltExit c s) := { h.halt .normalTermination with }

theorem Inv.raise {s : State} (h : Inv s) (c v : Word) : Inv (raise c v s) := by
  cases hp : s.ctl.trapPending
  · rw [raise_of_not_pending hp]
    exact { h with }
  · rw [raise_of_pending hp]
    exact h.haltException ..

theorem Inv.restoreStatus {s : State} (h : Inv s) : Inv (restoreStatus s) := by
  unfold Machine.restoreStatus
  dsimp only
  split_ifs <;> exact (h.csrPut ..).csrPut ..

/-! ## The environment (R272, R273) -/

theorem Inv.envAccesses {s : State} (h : Inv s) (l : List EnvAccess) : Inv (envAccesses l s).1 :=
  envAccesses_keeps (fun _ _ _ _ _ => Inv.memWrite) (fun _ _ _ _ => Inv.allocateHeap) l h

theorem Inv.applyXs {s : State} (h : Inv s) (l : List (RegIdx × Word)) : Inv (applyXs l s) := by
  induction l generalizing s with
  | nil => exact h
  | cons p rest ih => exact ih (h.setX p.1 p.2)

theorem Inv.applyFs {s : State} (h : Inv s) (l : List (RegIdx × Dword)) : Inv (applyFs l s) := by
  rw [applyFs_frame]
  exact { h with }

theorem Inv.applyEnv {s : State} (h : Inv s) (o : EnvOutcome) : Inv (applyEnv o s) := by
  rcases applyEnv_cases o s with ⟨xs, fs, l, -, -, he⟩ | ⟨xs, fs, l, e, -, -, he⟩ | ⟨code, -, he⟩ | ⟨cause, value, -, he⟩ <;>
    rw [he]
  · exact (((h.envAccesses l).applyXs xs).applyFs fs).complete
  · exact (h.envAccesses l).haltException ..
  · exact h.haltExit code
  · exact h.haltException ..

/-! ## The core's step -/

theorem Inv.effect {s t : State} (h : Inv s) (he : InstrEffect s t) : Inv t := by
  cases he with
  | wrote rd v => exact (h.setX rd v).complete
  | jumped rd v target => exact (h.setX rd v).completeAt target
  | stored ea w v m hm => exact (h.memWrite hm).complete
  | raised e => exact h.raise ..
  | environment o => exact h.applyEnv o
  | paused => exact h.complete.halt .breakpoint
  | returned => exact h.restoreStatus.completeAt _
  | wroteCsr rd n v u => exact ((h.csrWrite n v).setX rd u).complete

theorem Inv.execWord {w : Word} {s t : State} (h : Inv s) (hw : execWord exec w s = .next t) : Inv t := by
  rcases execWord_next hw with ⟨-, rfl⟩ | ⟨-, rfl⟩ | ⟨i, -, hi⟩
  · exact h.halt _
  · exact h.raise ..
  · exact h.effect (exec_effect hi)

theorem Inv.check_event {e : TrapEvent} {s t : State} (h : Inv s) (hc : check s = .event e t) : Inv t := by
  obtain ⟨-, ht, -⟩ := Machine.check_event hc
  rw [ht]
  exact { h with }

theorem Inv.enterTrap {e : TrapEvent} {s t : State} (h : Inv s) (he : enterTrap e s = .next t) : Inv t := by
  have hs : Inv (saveTrap e s) := ((h.csrPut ..).csrPut ..).csrPut ..
  rcases enterTrap_cases e s with ⟨-, -, hr⟩ | ⟨-, -, hn⟩ | ⟨-, -, hn⟩
  · rw [hr] at he; cases he
  · rw [hn] at he
    cases he
    exact ((hs.csrPut ..).csrPut ..).setPc _
  · rw [hn] at he
    cases he
    exact hs.haltException ..

/-- The budget may run out where the step ends with a halt. -/
theorem inv_halt_countdown {s : State} (h : Inv s) (r : HaltReason) : Inv (halt r (countdown s)) :=
  { h.halt r with budget := by cases r <;> exact nofun }

/-- The end of a step: a running core that used a unit and goes on had more than one (R313). -/
theorem Inv.finishStep {s : State} (h : Inv s) : Inv (finishStep s) := by
  rcases finishStep_cases s with ⟨-, hf⟩ | ⟨-, -, hf⟩ | ⟨-, -, -, hf⟩ | ⟨hr, -, h1, hf⟩ <;> rw [hf]
  · exact h
  · exact inv_halt_countdown h _
  · exact inv_halt_countdown h _
  · refine { h with budget := fun _ n hn => ?_ }
    obtain ⟨m, hm, rfl⟩ := Option.map_eq_some_iff.mp hn
    have hpos := h.budget hr m hm
    have hne : m ≠ 1 := fun e => h1 (e ▸ hm)
    omega

theorem Inv.runCore {s t : State} (h : Inv s) (hc : runCore exec s = .next t) : Inv t := by
  rcases runCore_next hc with ⟨-, rfl⟩ | ⟨-, -, rfl⟩ | ⟨-, -, ⟨e, -, rfl⟩ | ⟨w, -, ⟨s', hv, rfl⟩ |
    ⟨e, s', u, he, hu, rfl⟩ | ⟨s', u, hn, hu, rfl⟩⟩⟩
  · exact h.halt _
  · exact h.halt _
  · exact h.haltException ..
  · obtain ⟨-, -, rfl⟩ := check_violation hv
    exact h.halt _
  · exact ((h.check_event he).enterTrap hu).finishStep
  · obtain ⟨-, rfl⟩ := check_nothing hn
    exact (Inv.execWord (h.csrPut .uip _) hu).finishStep

/-! ## Reset and the ports -/

/-- A core stopped at the reset values of its parameters (R61, R400). -/
structure AtReset (s : State) : Prop where
  registers : s.x = resetRegisters s.params.memcfg
  csrs : s.csr = resetCsrs
  memory : s.mem = []
  heap : s.heapPtr = s.params.memcfg.heapBase
  stopped : s.run.runState = .stopped
  noStop : s.run.stopReq = false
  noPause : s.run.pauseReq = false

theorem atReset_reset : AtReset State.reset := ⟨rfl, rfl, rfl, rfl, rfl, rfl, rfl⟩

theorem atReset_hostReset (s : State) : AtReset (hostReset s) := by
  obtain ⟨hp, -, hx, -, -, hc, hm, hh, -, hr, hs, hq, -⟩ := hostReset_fields s
  exact ⟨by rw [hx, hp], hc, hm, by rw [hh, hp], hr, hs, hq⟩

/-- What a well-formed configuration says of the heap's base: aligned, and below the end of the stack (R83). -/
theorem wfConfig_heapBase {c : MemConfig} (h : wfConfig c = true) :
    c.heapBase.toNat % 4 = 0 ∧ c.heapBase.toNat ≤ c.stackBase.toNat + 4 := by
  simp only [wfConfig, Bool.and_eq_true, beq_iff_eq, decide_eq_true_eq] at h
  omega

/-- The reset values meet the invariant under a well-formed configuration. -/
theorem AtReset.inv {s : State} (h : AtReset s) (hc : wfConfig s.params.memcfg = true) (hb : s.run.breakpoints.Nodup) : Inv s where
  memory := by rw [h.memory]; exact ⟨.nil, nofun⟩
  addressSpace := by rw [h.memory]; exact nofun
  zeroCell := by rw [h.registers]; rfl
  ustatusReserved := by rw [h.csrs]; rfl
  fcsrReserved := by rw [h.csrs]; rfl
  counters := by rw [h.csrs]; rfl
  configuration := hc
  heapBounds := by rw [h.heap]; exact ⟨le_rfl, (wfConfig_heapBase hc).2⟩
  heapAligned := by rw [h.heap]; exact (wfConfig_heapBase hc).1
  budget := by rw [h.stopped]; exact nofun
  requests := fun _ => ⟨h.noStop, h.noPause⟩
  breakpoints := hb

theorem inv_hostReset {s : State} (hc : wfConfig s.params.memcfg = true) (hb : s.run.breakpoints.Nodup) : Inv (hostReset s) := by
  obtain ⟨hp, -, -, -, -, -, -, -, -, -, -, -, hbr⟩ := hostReset_fields s
  exact (atReset_hostReset s).inv (hp ▸ hc) (hbr ▸ hb)

theorem Inv.loadImage {s : State} (h : Inv s) (image : List (Word × Byte)) (entry : Word) : Inv (loadImage image entry s) :=
  have hr : Inv (hostReset s) := inv_hostReset h.configuration h.breakpoints
  { hr with
    memory := Memory.wf_writeImage hr.memory image
    addressSpace := Memory.below_writeImage hr.addressSpace image }

/-- The breakpoints of a run are kept without repeats (R323). -/
theorem nodup_foldr_insert (l : List Word) : (l.foldr List.insert []).Nodup := by
  induction l with
  | nil => exact .nil
  | cons a l ih => exact ih.insert

theorem startRun_of_idle {s : State} (h : s.run.runState = .stopped ∨ s.run.runState = .paused) (n : Int) (l : List Word) :
    startRun n l s = (true, { s with run := { s.run with
      breakpoints := l.foldr List.insert []
      stepsLeft := if n > 0 then some n else none
      stopReq := false
      pauseReq := false
      runState := .running } }) := if_pos h

/-- A start gives a positive budget or none (R322). -/
theorem Inv.startRun {s : State} (h : Inv s) (hr : s.run.runState = .stopped ∨ s.run.runState = .paused) (n : Int)
    (l : List Word) : Inv (startRun n l s).2 := by
  rw [startRun_of_idle hr]
  refine { h with budget := fun _ m hm => ?_, requests := fun hn => absurd rfl hn, breakpoints := nodup_foldr_insert l }
  obtain ⟨hn, hm⟩ := Option.ite_none_right_eq_some.mp hm
  cases hm
  exact hn

theorem Inv.portChange {s t : State} {op : PortOp} (h : Inv s) (hp : PortChange s op t) : Inv t := by
  cases hp with
  | nothing => exact h
  | external => exact h.withController _
  | timer => exact h.withController _
  | started _ n l hr => exact h.startRun hr n l
  | requested _ p q hr => exact { h with requests := fun hn => absurd hr hn }
  | reset => exact inv_hostReset h.configuration h.breakpoints
  | loaded image entry => exact h.loadImage image entry
  | configured c _ hc => exact inv_hostReset hc h.breakpoints
  | setX i v => exact h.setX i v
  | setF i v => exact h.setF i v
  | setPc v => exact h.setPc v
  | setCsr n v => exact h.csrWrite n v
  | setMem a w v m _ hm => exact h.memWrite hm

theorem Inv.applyPort {s t : State} {op : PortOp} (h : Inv s) (ha : applyPort exec op s = .next t) : Inv t := by
  rcases applyPort_cases op s with ⟨-, -, he⟩ | ⟨-, -, he⟩ | ⟨im, en, -, -, -, he⟩ | ⟨c, -, -, -, he⟩ | ⟨-, a, u, hu, he⟩ <;>
    rw [he] at ha
  · exact h.runCore ha
  · cases ha; exact h
  · cases ha
  · cases ha
  · cases ha; exact (h.portChange hu).withAnswer a

/-- Settles O56, by the kinds of step: the core's turn, an idle core, an operation of the agenda. -/
theorem stepKeepsInvariant : Obligations.StepKeepsInvariant := by
  intro s t h hs
  rcases step_next hs with ⟨-, -, hc⟩ | ⟨-, -, rfl⟩ | ⟨op, rest, -, hp⟩
  · exact h.runCore hc
  · exact h
  · exact (h.withAgenda rest).applyPort hp

/-- Settles O57: the Default preset is well-formed, no breakpoint is set and no trap is pending. -/
theorem resetMeetsInvariant : Obligations.ResetMeetsInvariant :=
  ⟨atReset_reset.inv (by decide) .nil, fun _ hp => nomatch hp⟩

end Sys2Proof.Machine
end

section
/-! SUPPORT. The CSR file (R33 to R55): which number names which CSR, what a write does to its own cell and to the others, and the
slices of linked registers. -/

namespace Sys2Proof.Machine

/-! ## Numbers (R37, R38, R55) -/

/-- The unimplemented numbers are those outside the table of R38. -/
theorem csrOfNumber_eq_none_iff (n : CsrNum) : csrOfNumber n = none ↔ n ∉ implementedCsrs.map csrNumber := by
  simp [csrOfNumber, List.find?_eq_none]

theorem csrRead_of_unimplemented {n : CsrNum} (h : csrOfNumber n = none) (s : State) : csrRead n s = 0#32 := by
  unfold csrRead
  rw [h]

theorem csrWrite_of_unimplemented {n : CsrNum} (h : csrOfNumber n = none) (v : Word) (s : State) : csrWrite n v s = s := by
  unfold csrWrite
  rw [h]

/-- A public read after a public write of the same CSR, by name. -/
theorem csrRead_csrWrite_csrNumber (c d : CsrName) (v : Word) (s : State) :
    csrRead (csrNumber d) (csrWrite (csrNumber c) v s) = csrGet d (csrPut c v s) := by
  rw [csrWrite_csrNumber, csrRead_csrNumber]

/-! ## Cells -/

/-- The CSRs that share the cell `fcsr` (R34, R40 to R42). -/
def fcsrNames : List CsrName := [.fflags, .frm, .fcsr]

theorem csrNumber_mem_of_mem_fcsrNames {c : CsrName} (h : c ∈ fcsrNames) :
    csrNumber c ∈ [0x001#12, 0x002#12, 0x003#12] :=
  List.mem_map_of_mem (f := csrNumber) h

/-- A write reaches its own cell only. -/
theorem csrGet_csrPut_of_ne {c d : CsrName} (hne : c ≠ d) (hf : ¬(c ∈ fcsrNames ∧ d ∈ fcsrNames)) (v : Word) (s : State) :
    csrGet d (csrPut c v s) = csrGet d s := by
  cases c <;> cases d
  -- the cells differ, or the write is of a counter and does nothing
  any_goals rfl
  -- one name twice, then two names of the cell of `fcsr`
  any_goals exact absurd rfl hne
  all_goals exact absurd (by decide) hf

/-- A write through one number is seen through another only when both name `fcsr`'s cell (R33, R53, R55). -/
theorem csrRead_csrWrite_of_ne {n m : CsrNum} (hne : n ≠ m)
    (hf : ¬(n ∈ [0x001#12, 0x002#12, 0x003#12] ∧ m ∈ [0x001#12, 0x002#12, 0x003#12])) (v : Word) (s : State) :
    csrRead m (csrWrite n v s) = csrRead m s := by
  cases hn : csrOfNumber n with
  | none => rw [csrWrite_of_unimplemented hn]
  | some c =>
    cases hm : csrOfNumber m with
    | none => rw [csrRead_of_unimplemented hm, csrRead_of_unimplemented hm]
    | some d =>
      obtain rfl := csrNumber_of_csrOfNumber hn
      obtain rfl := csrNumber_of_csrOfNumber hm
      rw [csrRead_csrWrite_csrNumber, csrRead_csrNumber]
      refine csrGet_csrPut_of_ne (fun h => hne (congrArg csrNumber h)) (fun ⟨hc, hd⟩ => hf ⟨?_, ?_⟩) v s
      · exact csrNumber_mem_of_mem_fcsrNames hc
      · exact csrNumber_mem_of_mem_fcsrNames hd

/-- Settles O35, by the kinds of CSR: plain, masked, counter, unimplemented; and, for two numbers, their cells. -/
theorem csrWriteVariants : Obligations.CsrWriteVariants := by
  intro v s
  refine ⟨?plain, ?ustatus, ?fcsr, ?counters, fun n hn => ?unimplemented, fun n m hne hf => csrRead_csrWrite_of_ne hne hf v s⟩
  case plain =>
    simp only [List.forall_mem_cons]
    exact ⟨rfl, rfl, rfl, rfl, rfl, rfl, rfl, nofun⟩
  case ustatus => exact csrRead_csrWrite_csrNumber .ustatus .ustatus v s
  case fcsr => exact csrRead_csrWrite_csrNumber .fcsr .fcsr v s
  case counters =>
    simp only [List.forall_mem_cons]
    exact ⟨rfl, rfl, rfl, rfl, rfl, rfl, nofun⟩
  case unimplemented =>
    have h := (csrOfNumber_eq_none_iff n).2 hn
    exact ⟨csrRead_of_unimplemented h s, csrWrite_of_unimplemented h v s⟩

/-! ## Linked registers (R34) -/

theorem getLsbD_lowOnes (len i : Nat) : (lowOnes len).getLsbD i = decide (i < 32 ∧ i < len) := by
  simp [lowOnes, BitVec.getLsbD_ofNat, Nat.testBit_two_pow_sub_one]

/-- What a linked register reads back is the low bits of what was written. -/
theorem sliceRead_sliceWrite {lo len : Nat} (h : lo + len ≤ 32) (p v : Word) :
    sliceRead lo len (sliceWrite lo len p v) = v &&& lowOnes len := by
  ext i hi
  simp only [sliceRead, sliceWrite, ← BitVec.getLsbD_eq_getElem, BitVec.getLsbD_and, BitVec.getLsbD_or,
    BitVec.getLsbD_not, BitVec.getLsbD_ushiftRight, BitVec.getLsbD_shiftLeft, getLsbD_lowOnes]
  by_cases hl : i < len
  · simp [hl, hi, show lo + i < 32 by omega]
  · simp [hl]

/-- A masked write of a value that agrees with the old one on the protected bits takes the whole value (R33). -/
theorem maskedWrite_of_and_mask_eq {m old v : Word} (h : v &&& m = old &&& m) : maskedWrite m old v = v := by
  unfold maskedWrite
  rw [← h, ← BitVec.and_or_distrib_left, BitVec.or_not_self, BitVec.and_allOnes]

/-- A slice's write changes no bit outside the slice (R34). -/
theorem sliceWrite_and_of_disjoint {lo len : Nat} {m : Word} (h : lowOnes len <<< lo &&& m = 0#32) (p v : Word) :
    sliceWrite lo len p v &&& m = p &&& m := by
  ext i hi
  have hb := congrArg (·.getLsbD i) h
  simp only [sliceWrite, ← BitVec.getLsbD_eq_getElem, BitVec.getLsbD_and, BitVec.getLsbD_or,
    BitVec.getLsbD_not, BitVec.getLsbD_shiftLeft, BitVec.getLsbD_zero] at hb ⊢
  by_cases hlo : i < lo
  · simp [hlo, hi]
  · cases hl : (lowOnes len).getLsbD (i - lo)
    · simp [hi]
    · have hm : m.getLsbD i = false := by simpa [hlo, hl, hi] using hb
      simp [hm]

/-- Writing a slice of `fcsr` changes exactly the slice. -/
theorem maskedWrite_sliceWrite {lo len : Nat} (h : lowOnes len <<< lo &&& fcsrMask = 0#32) (p v : Word) :
    maskedWrite fcsrMask p (sliceWrite lo len p v) = sliceWrite lo len p v :=
  maskedWrite_of_and_mask_eq (sliceWrite_and_of_disjoint h p v)

theorem csrPut_fflags_fcsr (v : Word) (s : State) : (csrPut .fflags v s).csr.fcsr = sliceWrite 0 5 s.csr.fcsr v :=
  maskedWrite_sliceWrite (by decide) ..

theorem csrPut_frm_fcsr (v : Word) (s : State) : (csrPut .frm v s).csr.fcsr = sliceWrite 5 3 s.csr.fcsr v :=
  maskedWrite_sliceWrite (by decide) ..

theorem sliceWrite_fflags (p v : Word) : sliceWrite 0 5 p v = (p &&& 0xFFFFFFE0#32) ||| (v &&& 0x1F#32) := by
  simp [sliceWrite, lowOnes]

/-- A counter's two CSRs are the halves of its cell (R50 to R52). -/
theorem halves_append (c : Dword) : c.extractLsb' 32 32 ++ c.extractLsb' 0 32 = c :=
  (BitVec.extractLsb'_append_extractLsb'_eq_extractLsb' rfl).trans BitVec.extractLsb'_eq_self

/-- Settles O36: the slices of `fcsr` read, written and read back, and the halves of the counters. -/
theorem linkedCsrsShareOneCell : Obligations.LinkedCsrsShareOneCell := by
  intro v s
  refine ⟨?readFflags, rfl, ?writeFflags, ?writeFrm, ?readBackFflags, ?readBackFrm, halves_append _, halves_append _,
    halves_append _⟩
  case readFflags => exact congrArg (· &&& 0x1F#32) (BitVec.ushiftRight_zero _)
  case writeFflags => exact (csrPut_fflags_fcsr v s).trans (sliceWrite_fflags ..)
  case writeFrm => exact csrPut_frm_fcsr v s
  case readBackFflags => exact (congrArg (sliceRead 0 5) (csrPut_fflags_fcsr v s)).trans (sliceRead_sliceWrite (by decide) ..)
  case readBackFrm => exact (congrArg (sliceRead 5 3) (csrPut_frm_fcsr v s)).trans (sliceRead_sliceWrite (by decide) ..)

/-! ## Reset values (R61) -/

/-- Every register after a reset: `sp` and `gp` from the configuration, the others 0 (R24, R61). -/
theorem getX_of_resetRegisters {s : State} {c : MemConfig} (h : s.x = resetRegisters c) (i : RegIdx) :
    s.getX i = if i = 2#5 then c.stackPointer else if i = 3#5 then c.globalPointer else 0#32 := by
  have h2 : 2 = i.toNat ↔ i = 2#5 := by simp [← BitVec.toNat_inj, eq_comm]
  have h3 : 3 = i.toNat ↔ i = 3#5 := by simp [← BitVec.toNat_inj, eq_comm]
  simp only [State.getX, h, resetRegisters, Vector.getElem_set, Vector.getElem_replicate, h2, h3]
  by_cases hsp : i = 2#5
  · simp [hsp]
  · by_cases hgp : i = 3#5 <;> simp [hsp, hgp]

theorem csrRead_of_resetCsrs {s : State} (h : s.csr = resetCsrs) (n : CsrNum) : csrRead n s = 0#32 := by
  cases hn : csrOfNumber n with
  | none => exact csrRead_of_unimplemented hn s
  | some c =>
    obtain rfl := csrNumber_of_csrOfNumber hn
    rw [csrRead_csrNumber]
    unfold csrGet
    rw [h]
    cases c <;> rfl

/-- Settles O49, by the reset values of the registers and of the CSR cells; the rest is stated in `State.reset`. -/
theorem resetValues : Obligations.ResetValues :=
  ⟨getX_of_resetRegisters rfl, rfl, rfl, fun i => Vector.getElem_replicate i.isLt, csrRead_of_resetCsrs rfl, rfl, rfl, rfl,
    fun _ => rfl, rfl, rfl, rfl, rfl, rfl, rfl, rfl⟩

end Sys2Proof.Machine
end

section
/-! SUPPORT. The access check outcome by outcome (R88, R89), the segment map (R84) and the policy table (R85), and why an aligned
access stays in one segment: every segment begins and ends at a multiple of 4 (R83, R95). -/

namespace Sys2Proof.Machine

/-! ## The outcomes of the check (R89) -/

theorem resolve_of_misaligned {p : Params} {a : Word} {w : Width} (h : mustAlign p w = true ∧ a.toNat % w.bytes ≠ 0) (hp : Word)
    (k : AccessKind) : resolve p hp a w k = .error (.misaligned k a) := if_pos h

theorem resolve_of_unmapped {p : Params} {hp a : Word} {w : Width} (h : ¬(mustAlign p w = true ∧ a.toNat % w.bytes ≠ 0))
    (hs : segmentOf p.memcfg hp a.toNat = none) (k : AccessKind) : resolve p hp a w k = .error (.access k a) := by
  rw [resolve, if_neg h, hs]

/-- The access at `a`, whose first byte is in `g`, leaves the address space or the segment (R89, step 3). -/
def LeavesSegment (c : MemConfig) (hp a : Word) (w : Width) (g : Segment) : Prop :=
  a.toNat + w.bytes - 1 > 0xFFFFFFFF ∨ ∃ i, 1 ≤ i ∧ i < w.bytes ∧ segmentOf c hp (a.toNat + i) ≠ some g

/-- The check's own test for leaving: the first byte, which it looks at again, is in the segment. -/
theorem leavesSegment_iff {c : MemConfig} {hp a : Word} {g : Segment} (hs : segmentOf c hp a.toNat = some g) (w : Width) :
    LeavesSegment c hp a w g ↔
      a.toNat + w.bytes - 1 > 0xFFFFFFFF ∨ ¬∀ i ∈ List.range w.bytes, segmentOf c hp (a.toNat + i) = some g := by
  unfold LeavesSegment
  refine or_congr_right ⟨fun ⟨i, _, hi, hne⟩ h => hne (h i (List.mem_range.mpr hi)), fun h => ?_⟩
  push Not at h
  obtain ⟨i, hi, hne⟩ := h
  have h0 : i ≠ 0 := by rintro rfl; exact hne hs
  exact ⟨i, by omega, List.mem_range.mp hi, hne⟩

section
variable {p : Params} {hp a : Word} {w : Width} {g : Segment} (h : ¬(mustAlign p w = true ∧ a.toNat % w.bytes ≠ 0))
  (hs : segmentOf p.memcfg hp a.toNat = some g)
include h hs

theorem resolve_of_leaves (hl : LeavesSegment p.memcfg hp a w g) (k : AccessKind) :
    resolve p hp a w k = .error (.access k a) := by
  rw [resolve, if_neg h, hs]
  exact if_pos ((leavesSegment_iff hs w).mp hl)

/-- An access that stays in its segment is decided by the policy (R89, step 4). -/
theorem resolve_of_stays (hl : ¬LeavesSegment p.memcfg hp a w g) (k : AccessKind) :
    resolve p hp a w k = if policyAllows p g k = true then .ok g else .error (.access k a) := by
  rw [resolve, if_neg h, hs]
  exact if_neg (mt (leavesSegment_iff hs w).mpr hl)

theorem resolve_of_denied {k : AccessKind} (hd : policyAllows p g k = false) : resolve p hp a w k = .error (.access k a) := by
  by_cases hl : LeavesSegment p.memcfg hp a w g
  · exact resolve_of_leaves h hs hl k
  · rw [resolve_of_stays h hs hl, hd]
    rfl

end

theorem mustAlign_half (p : Params) : mustAlign p .half = true ↔ p.halfAlign = .required := beq_iff_eq

/-- Settles O20, by the outcomes of the check in their order. -/
theorem accessCheckOrder : Obligations.AccessCheckOrder := by
  refine ⟨fun p => ⟨rfl, mustAlign_half p, rfl, rfl⟩, fun p hp a w k => ⟨fun h => resolve_of_misaligned h hp k, fun h =>
    ⟨fun hs => resolve_of_unmapped h hs k, fun g hs => ⟨fun hl => resolve_of_leaves h hs hl k, fun hl => ⟨fun hd => ?_,
      fun ha => ?_⟩⟩⟩⟩⟩
  · exact resolve_of_denied h hs hd
  · exact (resolve_of_stays h hs hl k).trans (if_pos ha)

/-! ## The policy table (R85) -/

theorem policyAllows_fetch (p : Params) {g : Segment} (h : g ≠ .text) : policyAllows p g .fetch = false := by
  cases g
  case text => exact absurd rfl h
  all_goals rfl

/-- Settles O22: the entries of the table as `policyAllows` states them, and the check's last outcome. -/
theorem accessPolicyTable : Obligations.AccessPolicyTable := by
  intro p
  refine ⟨?_, Iff.rfl, rfl, fun g hg => ?_, beq_iff_eq, beq_iff_eq, fun _ => policyAllows_fetch p,
    fun _ _ _ _ _ hs hd h => resolve_of_denied h hs hd⟩
  · simp [policyAllows]
  · simp only [List.mem_cons, List.not_mem_nil, or_false] at hg
    rcases hg with rfl | rfl | rfl | rfl <;> exact ⟨rfl, rfl⟩

/-! ## The segment map (R84) -/

/-- The range of a segment, as the table of R84 gives it. -/
def SegmentRange (c : MemConfig) (hp : Word) (a : Nat) : Segment → Prop
  | .text => c.textBase.toNat ≤ a ∧ a ≤ c.textLimit.toNat + 3
  | .data => c.dataSegBase.toNat ≤ a ∧ a < c.heapBase.toNat
  | .heap => c.heapBase.toNat ≤ a ∧ a < hp.toNat
  | .stack => max hp.toNat c.stackLimit.toNat ≤ a ∧ a ≤ c.stackBase.toNat + 3
  | .mmio => c.mmioBase.toNat ≤ a ∧ a ≤ c.mmioLimit.toNat
  | .kernel => (c.kernelBase.toNat ≤ a ∧ a ≤ c.kernelHigh.toNat) ∧ ¬(c.mmioBase.toNat ≤ a ∧ a ≤ c.mmioLimit.toNat)

/-- An address is unmapped exactly when it is in no range, and its segment's range holds it. -/
theorem segmentRange_of_segmentOf (c : MemConfig) (hp : Word) (a : Nat) :
    (∃ g, segmentOf c hp a = some g ∧ SegmentRange c hp a g) ∨
      (segmentOf c hp a = none ∧ ∀ g, ¬SegmentRange c hp a g) := by
  unfold segmentOf
  split_ifs with ht hd hh hs hm hk
  · exact .inl ⟨_, rfl, ht⟩
  · exact .inl ⟨_, rfl, hd⟩
  · exact .inl ⟨_, rfl, hh⟩
  · exact .inl ⟨_, rfl, hs⟩
  · exact .inl ⟨_, rfl, hm⟩
  · exact .inl ⟨_, rfl, hk, hm⟩
  · refine .inr ⟨rfl, fun g => ?_⟩
    cases g with
    | text => exact ht
    | data => exact hd
    | heap => exact hh
    | stack => exact hs
    | mmio => exact hm
    | kernel => exact fun h => hk h.1

theorem segmentOf_eq_none_iff (c : MemConfig) (hp : Word) (a : Nat) :
    segmentOf c hp a = none ↔ ∀ g, ¬SegmentRange c hp a g := by
  rcases segmentRange_of_segmentOf c hp a with ⟨g, hs, hr⟩ | ⟨hs, hr⟩
  · rw [hs]
    exact ⟨nofun, fun h => absurd hr (h g)⟩
  · exact ⟨fun _ => hr, fun _ => hs⟩

/-- What the segment map needs of a well-formed configuration (R83 (b), (c)): the bounds of each region in order, and the text, user
and kernel regions apart. -/
theorem wfConfig_order {c : MemConfig} (h : wfConfig c = true) :
    (c.dataSegBase.toNat ≤ c.heapBase.toNat ∧ c.heapBase.toNat ≤ c.stackLimit.toNat ∧ c.stackLimit.toNat ≤ c.stackBase.toNat) ∧
    (c.kernelBase.toNat ≤ c.mmioBase.toNat ∧ c.mmioLimit.toNat ≤ c.kernelHigh.toNat) ∧
    (c.textLimit.toNat + 3 < c.dataSegBase.toNat ∨ c.stackBase.toNat + 3 < c.textBase.toNat) ∧
    (c.textLimit.toNat + 3 < c.kernelBase.toNat ∨ c.kernelHigh.toNat < c.textBase.toNat) ∧
    (c.stackBase.toNat + 3 < c.kernelBase.toNat ∨ c.kernelHigh.toNat < c.dataSegBase.toNat) := by
  simp only [wfConfig, Bool.and_eq_true, beq_iff_eq, decide_eq_true_eq] at h
  omega

/-- The ranges are disjoint under a well-formed configuration, so the first range that holds an address is the only one. -/
theorem segmentOf_of_segmentRange {c : MemConfig} {hp : Word} {a : Nat} {g : Segment} (hc : wfConfig c = true)
    (hlo : c.heapBase.toNat ≤ hp.toNat) (hhi : hp.toNat ≤ c.stackBase.toNat + 4) (h : SegmentRange c hp a g) :
    segmentOf c hp a = some g := by
  obtain ⟨huser, hkernel, htu, htk, huk⟩ := wfConfig_order hc
  unfold segmentOf
  cases g <;> unfold SegmentRange at h
  case text => rw [if_pos h]
  case data => rw [if_neg (by omega), if_pos h]
  case heap => rw [if_neg (by omega), if_neg (by omega), if_pos h]
  case stack => rw [if_neg (by omega), if_neg (by omega), if_neg (by omega), if_pos h]
  case mmio => rw [if_neg (by omega), if_neg (by omega), if_neg (by omega), if_neg (by omega), if_pos h]
  case kernel =>
    rw [if_neg (by omega), if_neg (by omega), if_neg (by omega), if_neg (by omega), if_neg h.2, if_pos h.1]

theorem segmentOf_eq_some_iff {c : MemConfig} {hp : Word} (hc : wfConfig c = true) (hlo : c.heapBase.toNat ≤ hp.toNat)
    (hhi : hp.toNat ≤ c.stackBase.toNat + 4) (a : Nat) (g : Segment) :
    segmentOf c hp a = some g ↔ SegmentRange c hp a g := by
  refine ⟨fun h => ?_, segmentOf_of_segmentRange hc hlo hhi⟩
  rcases segmentRange_of_segmentOf c hp a with ⟨g', hs, hr⟩ | ⟨hs, -⟩ <;> rw [h] at hs <;> cases hs
  exact hr

/-- Settles O21, segment by segment; KERNEL is told apart from MMIO by the range itself. -/
theorem segmentMap : Obligations.SegmentMap := by
  intro c hp a hc hlo hhi
  have hg := segmentOf_eq_some_iff hc hlo hhi a
  refine ⟨hg .text, hg .data, hg .heap, hg .stack, hg .mmio, hg .kernel, (segmentOf_eq_none_iff c hp a).trans
    ⟨fun h => ⟨h .text, h .data, h .heap, h .stack, h .mmio, fun hk => h .kernel ⟨hk, h .mmio⟩⟩, ?_⟩⟩
  rintro ⟨ht, hd, hh, hs, hm, hk⟩ (_ | _ | _ | _ | _ | _)
  exacts [ht, hd, hh, hs, hm, fun h => hk h.1]

/-! ## An aligned access stays in its segment (R83, R88, R95) -/

/-- Every bound of a segment is a multiple of 4 (R83 (a)); an upper bound is the address after the last byte. -/
theorem wfConfig_mod_four {c : MemConfig} (h : wfConfig c = true) :
    (c.textBase.toNat % 4 = 0 ∧ (c.textLimit.toNat + 4) % 4 = 0) ∧ (c.dataSegBase.toNat % 4 = 0 ∧ c.heapBase.toNat % 4 = 0) ∧
    (c.stackLimit.toNat % 4 = 0 ∧ (c.stackBase.toNat + 4) % 4 = 0) ∧ (c.mmioBase.toNat % 4 = 0 ∧ (c.mmioLimit.toNat + 1) % 4 = 0) ∧
    (c.kernelBase.toNat % 4 = 0 ∧ (c.kernelHigh.toNat + 1) % 4 = 0) := by
  simp only [wfConfig, Bool.and_eq_true, beq_iff_eq, decide_eq_true_eq] at h
  omega

/-- The bytes of one aligned word are in the same ranges. -/
theorem segmentRange_iff_of_div_four_eq {c : MemConfig} {hp : Word} (hc : wfConfig c = true) (h4 : hp.toNat % 4 = 0) {x y : Nat}
    (h : x / 4 = y / 4) (g : Segment) : SegmentRange c hp x g ↔ SegmentRange c hp y g := by
  obtain ⟨htext, hdata, hstack, hmmio, hkernel⟩ := wfConfig_mod_four hc
  cases g <;> unfold SegmentRange <;> omega

/-- The bytes of an access at a multiple of its width are in one block of any multiple of the width. -/
theorem add_div_eq_of_dvd {n m a i : Nat} (hm : n ∣ m) (ha : n ∣ a) (hi : i < n) : (a + i) / m = a / m := by
  obtain ⟨k, rfl⟩ := hm
  obtain ⟨q, rfl⟩ := ha
  have hn : 0 < n := Nat.zero_lt_of_lt hi
  rw [← Nat.div_div_eq_div_mul, ← Nat.div_div_eq_div_mul, Nat.mul_add_div hn, Nat.div_eq_of_lt hi, Nat.mul_div_cancel_left q hn,
    Nat.add_zero]

theorem bytes_pos (w : Width) : 0 < w.bytes := by cases w <;> decide

/-- The widths of an instruction's access divide a word. -/
theorem bytes_dvd_four {w : Width} (h : w ≠ .double) : w.bytes ∣ 4 := by
  cases w
  case double => exact absurd rfl h
  all_goals decide

/-- With `HALF_ALIGN = required`, an access that is not misaligned is at a multiple of its width (R88). -/
theorem bytes_dvd_of_not_misaligned {p : Params} {a : Word} {w : Width} (hp : p.halfAlign = .required)
    (h : ¬(mustAlign p w = true ∧ a.toNat % w.bytes ≠ 0)) : w.bytes ∣ a.toNat := by
  cases w with
  | byte => exact one_dvd _
  | half => exact Nat.dvd_of_mod_eq_zero (not_not.mp fun hne => h ⟨(mustAlign_half p).mpr hp, hne⟩)
  | word | double => exact Nat.dvd_of_mod_eq_zero (not_not.mp fun hne => h ⟨rfl, hne⟩)

/-- An access of at most 4 bytes at a multiple of its width stays in the segment of its first byte. -/
theorem not_leavesSegment_of_aligned {c : MemConfig} {hp a : Word} {w : Width} {g : Segment} (hc : wfConfig c = true)
    (hlo : c.heapBase.toNat ≤ hp.toNat) (hhi : hp.toNat ≤ c.stackBase.toNat + 4) (h4 : hp.toNat % 4 = 0)
    (hw : w.bytes ∣ 4) (ha : w.bytes ∣ a.toNat) (hs : segmentOf c hp a.toNat = some g) : ¬LeavesSegment c hp a w g := by
  have hblock {i : Nat} (hi : i < w.bytes) : (a.toNat + i) / 4 = a.toNat / 4 := add_div_eq_of_dvd hw ha hi
  rintro (hend | ⟨i, -, hi, hne⟩)
  · have := a.isLt
    have := hblock (Nat.sub_lt (bytes_pos w) Nat.one_pos)
    omega
  · have hg := segmentOf_eq_some_iff hc hlo hhi
    exact hne ((hg _ g).mpr ((segmentRange_iff_of_div_four_eq hc h4 (hblock hi) g).mpr ((hg _ g).mp hs)))

/-- Settles O23: an access that is not misaligned is at a multiple of its width, so the check's third outcome is left out. -/
theorem alignedAccessesNeverCross : Obligations.AlignedAccessesNeverCross := by
  intro p hp a w k hc hlo hhi h4 hhalf hw h
  rcases resolve_error h with ⟨-, he⟩ | ⟨hal, -⟩
  · cases he
  · cases hs : segmentOf p.memcfg hp a.toNat with
    | none => exact .inl rfl
    | some g =>
      have hstays : ¬LeavesSegment p.memcfg hp a w g :=
        not_leavesSegment_of_aligned hc hlo hhi h4 (bytes_dvd_four hw) (bytes_dvd_of_not_misaligned hhalf hal) hs
      rw [resolve_of_stays hal hs hstays k] at h
      refine .inr ⟨g, rfl, ?_⟩
      cases hd : policyAllows p g k
      · rfl
      · rw [hd] at h; cases h

end Sys2Proof.Machine
end

section
/-! SUPPORT. The bytes of a value in memory, in both directions (R86), and the two memory ports byte by byte (R90, R91, R97). -/

namespace Sys2Proof.Machine

/-! ## The bytes of a value (R86) -/

theorem readBytes_length (m : Memory) (a n : Nat) : (m.readBytes a n).length = n := by
  induction n generalizing a with
  | zero => rfl
  | succ n ih => exact congrArg (· + 1) (ih (a + 1))

theorem readBytes_getElem (m : Memory) (a n i : Nat) (h : i < (m.readBytes a n).length) :
    (m.readBytes a n)[i] = m.read (a + i) := by
  induction n generalizing a i with
  | zero => cases h
  | succ n ih =>
    cases i with
    | zero => rfl
    | succ i => exact (ih (a + 1) i _).trans (congrArg m.read (by omega))

theorem leNat_lt (bs : List Byte) : leNat bs < 256 ^ bs.length := by
  induction bs with
  | nil => exact Nat.one_pos
  | cons b bs ih =>
    have hb := b.isLt
    simp only [leNat, List.length_cons, pow_succ']
    omega

/-- A list of bytes is the bytes of its number. -/
theorem leBytes_leNat (bs : List Byte) : leBytes bs.length (leNat bs) = bs := by
  induction bs with
  | nil => rfl
  | cons b bs ih =>
    have hb := b.isLt
    have hlow : BitVec.ofNat 8 (b.toNat + 256 * leNat bs) = b := BitVec.eq_of_toNat_eq (by simp; omega)
    have hhigh : (b.toNat + 256 * leNat bs) / 256 = leNat bs := by omega
    simp only [List.length_cons, leBytes, leNat, hlow, hhigh, ih]

theorem two_pow_eight_mul (n : Nat) : 2 ^ (8 * n) = 256 ^ n := Nat.pow_mul 2 8 n

/-- A byte of a doubleword, and of the number it holds. -/
theorem extractLsb'_byte (v : Dword) (i : Nat) : v.extractLsb' (8 * i) 8 = BitVec.ofNat 8 (v.toNat / 256 ^ i) := by
  rw [BitVec.extractLsb', Nat.shiftRight_eq_div_pow, two_pow_eight_mul]

/-! ## The ports (R90, R91) -/

theorem memRead_of_resolve_ok {a : Word} {w : Width} {s : State} {g : Segment}
    (h : resolve s.params s.heapPtr a w .load = .ok g) :
    memRead a w s = .ok (BitVec.ofNat 64 (leNat (s.mem.readBytes a.toNat w.bytes))) := by rw [memRead, h]

theorem memRead_of_resolve_error {a : Word} {w : Width} {s : State} {e : AccessFault}
    (h : resolve s.params s.heapPtr a w .load = .error e) : memRead a w s = .error e := by rw [memRead, h]

theorem memWrite_of_resolve_ok {a : Word} {w : Width} {s : State} {g : Segment}
    (h : resolve s.params s.heapPtr a w .store = .ok g) (v : Dword) :
    memWrite a w v s = .ok { s with mem := s.mem.writeBytes a.toNat (leBytes w.bytes v.toNat) } := by rw [memWrite, h]

theorem memWrite_of_resolve_error {a : Word} {w : Width} {s : State} {e : AccessFault}
    (h : resolve s.params s.heapPtr a w .store = .error e) (v : Dword) : memWrite a w v s = .error e := by rw [memWrite, h]

theorem bytes_le_eight (w : Width) : w.bytes ≤ 8 := by cases w <;> decide

/-- The value a read gives, as a number: the bytes fit a doubleword. -/
theorem toNat_leNat_readBytes (m : Memory) (a : Nat) (w : Width) :
    (BitVec.ofNat 64 (leNat (m.readBytes a w.bytes))).toNat = leNat (m.readBytes a w.bytes) := by
  have hlt := leNat_lt (m.readBytes a w.bytes)
  have hle : 256 ^ w.bytes ≤ 256 ^ 8 := Nat.pow_le_pow_right (by decide) (bytes_le_eight w)
  rw [readBytes_length] at hlt
  exact BitVec.toNat_ofNat .. ▸ Nat.mod_eq_of_lt (by omega)

/-- The value a read gives, byte by byte (R86). -/
theorem extractLsb'_leNat_readBytes (m : Memory) (a : Nat) (w : Width) {i : Nat} (hi : i < w.bytes) :
    (BitVec.ofNat 64 (leNat (m.readBytes a w.bytes))).extractLsb' (8 * i) 8 = m.read (a + i) := by
  have hl := readBytes_length m a w.bytes
  have hbytes := leBytes_leNat (m.readBytes a w.bytes)
  rw [hl] at hbytes
  calc _ = BitVec.ofNat 8 (leNat (m.readBytes a w.bytes) / 256 ^ i) := by rw [extractLsb'_byte, toNat_leNat_readBytes]
    _ = (leBytes w.bytes (leNat (m.readBytes a w.bytes)))[i]'(by simpa using hi) := (leBytes_getElem ..).symm
    _ = (m.readBytes a w.bytes)[i]'(by omega) := by simp only [hbytes]
    _ = m.read (a + i) := readBytes_getElem ..

section
variable {a : Word} {w : Width} {v : Dword} {s t : State} (hm : s.mem.wf) (h : memWrite a w v s = .ok t)
include hm h

/-- A write sets its bytes to those of the value (R86, R91). -/
theorem byteAt_of_memWrite {i : Nat} (hi : i < w.bytes) : t.byteAt (a.toNat + i) = v.extractLsb' (8 * i) 8 := by
  obtain ⟨-, rfl⟩ := memWrite_ok h
  have hr := Memory.read_writeBytes hm a.toNat (leBytes w.bytes v.toNat) (a.toNat + i)
  rw [dif_pos (by simpa using hi)] at hr
  rw [extractLsb'_byte]
  refine hr.trans ?_
  simp only [Nat.add_sub_cancel_left, leBytes_getElem]

theorem sameMemoryExcept_of_memWrite : SameMemoryExcept a.toNat w.bytes s t := by
  obtain ⟨-, rfl⟩ := memWrite_ok h
  exact fun _ ha => Memory.read_writeBytes_of_not_mem hm (by simpa using ha)

end

/-- Settles O24: the value read byte by byte, and the state a write leaves. -/
theorem memoryPorts : Obligations.MemoryPorts := by
  intro a w s hm
  refine ⟨fun g hg => ⟨_, memRead_of_resolve_ok hg, ?_, fun i => extractLsb'_leNat_readBytes s.mem a.toNat w⟩,
    fun e => memRead_of_resolve_error, fun v g hg => ?_, fun v e he => memWrite_of_resolve_error he v⟩
  · have hlt := leNat_lt (s.mem.readBytes a.toNat w.bytes)
    rw [readBytes_length] at hlt
    rwa [toNat_leNat_readBytes, two_pow_eight_mul]
  · have hw := memWrite_of_resolve_ok hg v
    exact ⟨_, hw, fun i => byteAt_of_memWrite hm hw, sameMemoryExcept_of_memWrite hm hw, rfl, Memory.wf_writeBytes hm ..⟩

/-! ## A write, then a read or a fetch (R97, R98, R104) -/

/-- An access of one kind that resolves does so for another kind the segment allows (R89). -/
theorem resolve_ok_of_allowed {p : Params} {hp a : Word} {w : Width} {k k' : AccessKind} {g : Segment}
    (h : resolve p hp a w k = .ok g) (hk : policyAllows p g k' = true) : resolve p hp a w k' = .ok g := by
  obtain ⟨hal, hend, hseg, -⟩ := resolve_ok h
  have hs : segmentOf p.memcfg hp a.toNat = some g := hseg 0 (bytes_pos w)
  have hl : ¬LeavesSegment p.memcfg hp a w g := by
    rintro (hgt | ⟨i, -, hi, hne⟩)
    · omega
    · exact hne (hseg i hi)
  rw [resolve_of_stays hal hs hl, if_pos hk]

/-- The word whose four bytes are the low ones of `v` (R86, R94). -/
theorem wordAt_of_bytes {t : State} {a : Word} {v : Dword} (h : ∀ i < 4, t.byteAt (a.toNat + i) = v.extractLsb' (8 * i) 8) :
    wordAt t a = v.setWidth 32 := by
  have hb (i : Nat) (hi : i < 4) : t.mem.read (a.toNat + i) = v.extractLsb' (8 * i) 8 := h i hi
  have h0 : t.mem.read a.toNat = v.extractLsb' 0 8 := hb 0 (by decide)
  rw [wordAt, leWord, h0, hb 1 (by decide), hb 2 (by decide), hb 3 (by decide),
    BitVec.extractLsb'_append_extractLsb'_eq_extractLsb' (by decide),
    BitVec.extractLsb'_append_extractLsb'_eq_extractLsb' (by decide),
    BitVec.extractLsb'_append_extractLsb'_eq_extractLsb' (by decide)]
  exact (BitVec.setWidth_eq_extractLsb' (by decide)).symm

theorem memRead_of_memWrite {a : Word} {w : Width} {v : Dword} {s t : State} {g : Segment} (hm : s.mem.wf)
    (h : memWrite a w v s = .ok t) (hr : resolve s.params s.heapPtr a w .load = .ok g) :
    memRead a w t = .ok (BitVec.ofNat 64 (v.toNat % 2 ^ (8 * w.bytes))) := by
  obtain ⟨-, ht⟩ := memWrite_ok h
  have hmem : t.mem = s.mem.writeBytes a.toNat (leBytes w.bytes v.toNat) := congrArg State.mem ht
  have hr' : resolve t.params t.heapPtr a w .load = .ok g := by rw [ht]; exact hr
  have hb := Memory.readBytes_writeBytes hm a.toNat (leBytes w.bytes v.toNat)
  rw [leBytes_length] at hb
  rw [memRead_of_resolve_ok hr', hmem, hb, leNat_leBytes, two_pow_eight_mul]

/-- A word stored in the text segment is fetched from there (R104). -/
theorem fetch_of_memWrite_text {a : Word} {v : Dword} {s t : State} (hm : s.mem.wf) (h : memWrite a .word v s = .ok t)
    (hs : segmentOf s.params.memcfg s.heapPtr a.toNat = some .text) : fetch a t = .ok (v.setWidth 32) := by
  have hword : wordAt t a = v.setWidth 32 := wordAt_of_bytes fun _ => byteAt_of_memWrite hm h
  obtain ⟨g, hg, hw⟩ | ⟨e, -, hw⟩ := memWrite_cases a .word v s <;> rw [hw] at h <;> cases h
  obtain ⟨-, -, hseg, -⟩ := resolve_ok hg
  cases (hseg 0 (by decide)).symm.trans hs
  have hf : resolve s.params s.heapPtr a .word .fetch = .ok .text := resolve_ok_of_allowed hg rfl
  rw [fetch, hf, hword]

/-- The check at an unmapped address (R98). -/
theorem resolve_of_unmapped_eq {p : Params} {hp a : Word} (hs : segmentOf p.memcfg hp a.toNat = none) (w : Width) (k : AccessKind) :
    resolve p hp a w k =
      .error (if mustAlign p w = true ∧ a.toNat % w.bytes ≠ 0 then .misaligned k a else .access k a) := by
  split_ifs with h
  · exact resolve_of_misaligned h hp k
  · exact resolve_of_unmapped h hs k

/-- Settles O25: the bytes written are the bytes read, an unmapped address fails the check, and the text segment allows a fetch. -/
theorem writeThenReadAndUnmapped : Obligations.WriteThenReadAndUnmapped := by
  refine ⟨fun a w v s hm ⟨g, hg⟩ ⟨g', hg'⟩ => ?_, fun a w s hs => ?_, fun a v s t => fetch_of_memWrite_text⟩
  · have hw := memWrite_of_resolve_ok hg v
    exact ⟨_, hw, memRead_of_memWrite hm hw hg'⟩
  · exact ⟨memRead_of_resolve_error (resolve_of_unmapped_eq hs w .load),
      memWrite_of_resolve_error (resolve_of_unmapped_eq hs w .store)⟩

end Sys2Proof.Machine
end

section
/-! SUPPORT. The heap allocator's two outcomes (R95). -/

namespace Sys2Proof.Machine

/-- When an allocation fails: a negative size, or a new pointer above the stack floor or the end of the stack (R95). -/
def AllocationFails (n : Int) (s : State) : Prop :=
  n < 0 ∨ s.heapPtr.toNat + roundUp4 n > (stackFloor s).toNat ∨ s.heapPtr.toNat + roundUp4 n > s.params.memcfg.stackBase.toNat + 4

theorem allocateHeap_of_fails {n : Int} {s : State} (h : AllocationFails n s) : allocateHeap n s = none := by
  unfold allocateHeap
  rcases h with hn | hmax
  · exact if_pos hn
  · exact ite_eq_left_iff.mpr fun _ => if_pos hmax

theorem allocateHeap_of_fits {n : Int} {s : State} (h : ¬AllocationFails n s) : ∃ t, allocateHeap n s = some (s.heapPtr, t) := by
  obtain ⟨hn, hmax⟩ := not_or.mp h
  exact ⟨_, (if_neg hn).trans (if_neg hmax)⟩

/-- Settles O26: the two outcomes, and the new pointer as a number. -/
theorem heapAllocation : Obligations.HeapAllocation := by
  refine fun n s => ⟨allocateHeap_of_fails, fun h => ?_, fun hf => by rw [stackFloor, hf]⟩
  obtain ⟨t, ht⟩ := allocateHeap_of_fits h
  have hnew : (t.heapPtr.toNat : Int) = s.heapPtr.toNat + roundUp4 n := allocateHeap_heapPtr ht
  obtain ⟨hn, -, -, hmax, hframe⟩ := allocateHeap_some ht
  have h4 := roundUp4_mod n
  have hgrows := le_roundUp4 n
  refine ⟨t, ht, hnew, ?_, by omega, by omega, by omega⟩
  rw [hframe]

end Sys2Proof.Machine
end

section
/-! SUPPORT. Without the self-modifying-code permission the core's step keeps the text segment (R85, R92, R104): the only operation of a
step that reaches memory is `MemWrite`, and all its bytes are in one segment, which the policy denies it if it is the text. -/

namespace Sys2Proof.Machine

/-- `t` is reached from `s`, where stores to the text are denied, with its parameters and every byte of its text segment. -/
structure TextKept (s t : State) : Prop where
  denied : s.params.smcEnabled = false
  parameters : t.params = s.params
  canonical : t.mem.wf
  text : ∀ a, s.params.memcfg.textBase.toNat ≤ a ∧ a ≤ s.params.memcfg.textLimit.toNat + 3 → t.byteAt a = s.byteAt a

/-- An address is in the text segment by its range alone, wherever the heap ends (R84). -/
theorem segmentOf_eq_text_iff (c : MemConfig) (hp : Word) (a : Nat) :
    segmentOf c hp a = some .text ↔ c.textBase.toNat ≤ a ∧ a ≤ c.textLimit.toNat + 3 := by
  refine ⟨fun h => ?_, fun h => if_pos h⟩
  rcases segmentRange_of_segmentOf c hp a with ⟨g, hs, hr⟩ | ⟨hs, -⟩ <;> rw [h] at hs <;> cases hs
  exact hr

namespace TextKept
variable {s t u : State}

theorem refl (hd : s.params.smcEnabled = false) (hm : s.mem.wf) : TextKept s s := ⟨hd, rfl, hm, fun _ _ => rfl⟩

/-- An operation that changes neither the parameters nor memory. -/
theorem same (h : TextKept s t) (hp : u.params = t.params) (hm : u.mem = t.mem) : TextKept s u where
  denied := h.denied
  parameters := hp.trans h.parameters
  canonical := hm ▸ h.canonical
  text := fun a ha => (byteAt_congr hm a).trans (h.text a ha)

/-- A byte that a store which succeeds writes is not in the text segment (R85, R89). -/
theorem not_text_of_resolve_store (h : TextKept s t) {a : Word} {w : Width} {g : Segment}
    (hg : resolve t.params t.heapPtr a w .store = .ok g) {b : Nat} (hlo : a.toNat ≤ b) (hhi : b < a.toNat + w.bytes) :
    ¬(s.params.memcfg.textBase.toNat ≤ b ∧ b ≤ s.params.memcfg.textLimit.toNat + 3) := by
  intro hb
  obtain ⟨-, -, hseg, hallowed⟩ := resolve_ok hg
  have hbyte := hseg (b - a.toNat) (by omega)
  rw [Nat.add_sub_cancel' hlo, h.parameters, (segmentOf_eq_text_iff _ _ b).mpr hb] at hbyte
  cases hbyte
  have hstore : t.params.smcEnabled = true := hallowed
  rw [h.parameters, h.denied] at hstore
  cases hstore

theorem memWrite {a : Word} {w : Width} {v : Dword} (h : TextKept s t) (hw : memWrite a w v t = .ok u) : TextKept s u := by
  have hframe := sameMemoryExcept_of_memWrite h.canonical hw
  obtain ⟨g, hg, hok⟩ | ⟨e, -, herr⟩ := memWrite_cases a w v t
  · rw [hok] at hw
    cases hw
    refine ⟨h.denied, h.parameters, Memory.wf_writeBytes h.canonical .., fun b hb => ?_⟩
    exact (hframe b fun ⟨hlo, hhi⟩ => h.not_text_of_resolve_store hg hlo hhi hb).trans (h.text b hb)
  · rw [herr] at hw; cases hw

theorem allocateHeap {n : Int} {old : Word} (h : TextKept s t) (ha : allocateHeap n t = some (old, u)) : TextKept s u := by
  obtain ⟨-, -, -, -, rfl⟩ := allocateHeap_some ha
  exact h.same rfl rfl

/-! ## The operations of a step -/

theorem raise (h : TextKept s t) (c v : Word) : TextKept s (raise c v t) := by
  cases hp : t.ctl.trapPending
  · rw [raise_of_not_pending hp]
    exact h.same rfl rfl
  · rw [raise_of_pending hp]
    exact h.same rfl rfl

theorem restoreStatus (h : TextKept s t) : TextKept s (restoreStatus t) := by
  unfold Machine.restoreStatus
  dsimp only
  split_ifs <;> exact h.same (by simp) (by simp)

theorem envAccesses (h : TextKept s t) (l : List EnvAccess) : TextKept s (envAccesses l t).1 :=
  envAccesses_keeps (fun _ _ _ _ _ => memWrite) (fun _ _ _ _ => allocateHeap) l h

/-- The environment reaches memory through its accesses only (R273). -/
theorem applyEnv (h : TextKept s t) (o : EnvOutcome) : TextKept s (applyEnv o t) := by
  rcases applyEnv_cases o t with ⟨xs, fs, l, -, -, he⟩ | ⟨xs, fs, l, e, -, -, he⟩ | ⟨code, -, he⟩ | ⟨cause, value, -, he⟩ <;>
    rw [he]
  · rw [applyFs_frame, applyXs_frame]
    exact (h.envAccesses l).same rfl rfl
  · exact (h.envAccesses l).same rfl rfl
  · exact h.same rfl rfl
  · exact h.same rfl rfl

theorem effect (h : TextKept s t) (he : InstrEffect t u) : TextKept s u := by
  cases he with
  | wrote rd v => exact h.same (setX_params ..) (setX_mem ..)
  | jumped rd v target => exact h.same (setX_params ..) (setX_mem ..)
  | stored ea w v m hm => exact (h.memWrite hm).same rfl rfl
  | raised e => exact h.raise ..
  | environment o => exact h.applyEnv o
  | paused => exact h.same rfl rfl
  | returned => exact h.restoreStatus.same rfl rfl
  | wroteCsr rd n v w => exact h.same (by simp) (by simp)

theorem execWord {w : Word} (h : TextKept s t) (hw : execWord exec w t = .next u) : TextKept s u := by
  rcases execWord_next hw with ⟨-, rfl⟩ | ⟨-, rfl⟩ | ⟨i, -, hi⟩
  · exact h.same rfl rfl
  · exact h.raise ..
  · exact h.effect (exec_effect hi)

theorem check_event {e : TrapEvent} (h : TextKept s t) (hc : check t = .event e u) : TextKept s u := by
  obtain ⟨-, hu, -⟩ := Machine.check_event hc
  rw [hu]
  exact h.same rfl rfl

theorem enterTrap {e : TrapEvent} (h : TextKept s t) (he : enterTrap e t = .next u) : TextKept s u := by
  rcases enterTrap_cases e t with ⟨-, -, hr⟩ | ⟨-, -, hn⟩ | ⟨-, -, hn⟩
  · rw [hr] at he; cases he
  · rw [hn] at he
    cases he
    exact h.same (by simp) (by simp)
  · rw [hn] at he
    cases he
    exact h.same rfl rfl

theorem finishStep (h : TextKept s t) : TextKept s (finishStep t) := by
  rcases finishStep_cases t with ⟨-, hf⟩ | ⟨-, -, hf⟩ | ⟨-, -, -, hf⟩ | ⟨-, -, -, hf⟩ <;> rw [hf] <;> exact h.same rfl rfl

theorem runCore (h : TextKept s t) (hc : runCore exec t = .next u) : TextKept s u := by
  rcases runCore_next hc with ⟨-, rfl⟩ | ⟨-, -, rfl⟩ | ⟨-, -, ⟨e, -, rfl⟩ | ⟨w, -, ⟨s', hv, rfl⟩ |
    ⟨e, s', u, he, hu, rfl⟩ | ⟨s', u, hn, hu, rfl⟩⟩⟩
  · exact h.same rfl rfl
  · exact h.same rfl rfl
  · exact h.same rfl rfl
  · obtain ⟨-, -, rfl⟩ := check_violation hv
    exact h.same rfl rfl
  · exact ((h.check_event he).enterTrap hu).finishStep
  · obtain ⟨-, rfl⟩ := check_nothing hn
    have hr : TextKept s (refreshUip t) := h.same rfl rfl
    exact (hr.execWord hu).finishStep

end TextKept

/-- Settles O60: a RUNNING core's step keeps the text, and an idle core's changes nothing. -/
theorem textIsProtected : Obligations.TextIsProtected := by
  intro s t a ha hinv hd h hs
  have htext := (segmentOf_eq_text_iff _ _ a).mp hs
  rcases step_next h with ⟨-, -, hc⟩ | ⟨-, -, rfl⟩ | ⟨op, rest, ho, -⟩
  · exact ((TextKept.refl hd hinv.memory).runCore hc).text a htext
  · rfl
  · rw [ha] at ho; cases ho

end Sys2Proof.Machine
end

section
/-! SUPPORT. The decoder by major opcode (R133, R134), and that decoding and encoding are inverse to each other (R131, R132). -/

namespace Sys2Proof.Machine

/-- The null word is no admitted instruction, so the first test of R134 hides none. -/
theorem decode_eq_instr_iff (w : Word) (i : Instr) : decode w = .instr i ↔ decodeAdmitted w = some i := by
  have hz : decodeAdmitted 0x00000000#32 = none := by decide
  unfold decode
  by_cases h0 : w = 0x00000000#32
  · simp [h0, hz]
  · cases ha : decodeAdmitted w with
    | none => simp only [h0, if_false]; split_ifs <;> simp
    | some j => simp [h0]

/-! ## The decoder by major opcode (R133) -/

/-- The major opcodes of the opcode map (R133). -/
def admittedOpcodes : List (BitVec 7) :=
  [0b0110111#7, 0b0010111#7, 0b1101111#7, 0b1100111#7, 0b1100011#7, 0b0000011#7, 0b0100011#7, 0b0010011#7, 0b0110011#7,
    0b0001111#7, 0b1110011#7]

section
variable {w : Word}

theorem decodeAdmitted_of_lui (h : opcodeOf w = 0b0110111#7) : decodeAdmitted w = some (.lui (rdOf w) (immUOf w)) := by
  simp [decodeAdmitted, h]

theorem decodeAdmitted_of_auipc (h : opcodeOf w = 0b0010111#7) : decodeAdmitted w = some (.auipc (rdOf w) (immUOf w)) := by
  simp [decodeAdmitted, h]

theorem decodeAdmitted_of_jal (h : opcodeOf w = 0b1101111#7) : decodeAdmitted w = some (.jal (rdOf w) (offJOf w)) := by
  simp [decodeAdmitted, h]

theorem decodeAdmitted_of_jalr (h : opcodeOf w = 0b1100111#7) :
    decodeAdmitted w = if funct3Of w = 0b000#3 then some (.jalr (rdOf w) (rs1Of w) (immIOf w)) else none := by
  simp [decodeAdmitted, h]

theorem decodeAdmitted_of_branch (h : opcodeOf w = 0b1100011#7) : decodeAdmitted w = decodeBranch w := by
  simp [decodeAdmitted, h]

theorem decodeAdmitted_of_load (h : opcodeOf w = 0b0000011#7) : decodeAdmitted w = decodeLoad w := by
  simp [decodeAdmitted, h]

theorem decodeAdmitted_of_store (h : opcodeOf w = 0b0100011#7) : decodeAdmitted w = decodeStore w := by
  simp [decodeAdmitted, h]

theorem decodeAdmitted_of_opImm (h : opcodeOf w = 0b0010011#7) : decodeAdmitted w = decodeOpImm w := by
  simp [decodeAdmitted, h]

theorem decodeAdmitted_of_op (h : opcodeOf w = 0b0110011#7) : decodeAdmitted w = decodeOp w := by
  simp [decodeAdmitted, h]

theorem decodeAdmitted_of_miscMem (h : opcodeOf w = 0b0001111#7) : decodeAdmitted w = decodeMiscMem w := by
  simp [decodeAdmitted, h]

theorem decodeAdmitted_of_system (h : opcodeOf w = 0b1110011#7) : decodeAdmitted w = decodeSystem w := by
  simp [decodeAdmitted, h]

theorem decodeAdmitted_of_other (h : opcodeOf w ∉ admittedOpcodes) : decodeAdmitted w = none := by
  simp only [admittedOpcodes, List.mem_cons, List.not_mem_nil, or_false, not_or] at h
  simp [decodeAdmitted, h]

end

/-! ## From the instruction to the word and back (R131, R132) -/

theorem decodeAdmitted_encode {i : Instr} (h : i.wellFormed = true) : decodeAdmitted (encode i) = some i := by
  cases i with
  | lui | auipc => simp [encode, decodeAdmitted]
  | jal rd off => simp [encode, decodeAdmitted, offJOf_encJ _ _ _ ((Bool.not_eq_true' _).mp h)]
  | jalr => simp [encode, decodeAdmitted]
  | beq _ _ off | bne _ _ off | blt _ _ off | bge _ _ off | bltu _ _ off | bgeu _ _ off =>
    simp [encode, decodeAdmitted, decodeBranch, offBOf_encB _ _ _ _ _ ((Bool.not_eq_true' _).mp h)]
  | lb | lh | lw | lbu | lhu => simp [encode, decodeAdmitted, decodeLoad]
  | sb | sh | sw => simp [encode, decodeAdmitted, decodeStore]
  | addi | slti | sltiu | xori | ori | andi | slli | srli | srai => simp [encode, decodeAdmitted, decodeOpImm]
  | add | sll | slt | sltu | xor | srl | or | and => simp [encode, decodeAdmitted, decodeOp, decodeOpBase]
  | sub | sra => simp [encode, decodeAdmitted, decodeOp, decodeOpAlt]
  | mul | mulh | mulhsu | mulhu | div | divu | rem | remu => simp [encode, decodeAdmitted, decodeOp, decodeMulDiv]
  | fence fm pred succ rs1 rd =>
    obtain ⟨hf, hp, hs⟩ := fence_fields fm pred succ rs1 rd 0b000#3 0b0001111#7
    simp [encode, decodeAdmitted, decodeMiscMem, hf, hp, hs]
  | fenceI => simp [encode, decodeAdmitted, decodeMiscMem]
  | ecall | ebreak | uret | wfi => decide
  | csrrw | csrrs | csrrc | csrrwi | csrrsi | csrrci => simp [encode, decodeAdmitted, decodeSystem]

/-- Settles O1: the fields of an assembled word are those it was assembled from. -/
theorem decodeEncodeRoundTrip : Obligations.DecodeEncodeRoundTrip :=
  fun i h => (decode_eq_instr_iff _ i).mpr (decodeAdmitted_encode h)

/-! ## From the word to the instruction and back -/

section
variable {w : Word} {op f7 : BitVec 7} {f3 : BitVec 3}

theorem encR_of_fields (h7 : funct7Of w = f7) (h3 : funct3Of w = f3) (ho : opcodeOf w = op) :
    encR f7 (rs2Of w) (rs1Of w) f3 (rdOf w) op = w := by
  rw [← h7, ← h3, ← ho, encR_fields]

theorem encI_of_fields (h3 : funct3Of w = f3) (ho : opcodeOf w = op) :
    encI (immIOf w) (rs1Of w) f3 (rdOf w) op = w := by
  rw [← h3, ← ho, encI_fields]

theorem encS_of_fields (h3 : funct3Of w = f3) (ho : opcodeOf w = op) :
    encS (immSOf w) (rs2Of w) (rs1Of w) f3 op = w := by
  rw [← h3, ← ho, encS_fields]

theorem encB_of_fields (h3 : funct3Of w = f3) (ho : opcodeOf w = op) :
    encB (offBOf w) (rs2Of w) (rs1Of w) f3 op = w := by
  rw [← h3, ← ho, encB_fields]

end

theorem offBOf_even (w : Word) : (!(offBOf w).getLsbD 0) = true := by
  rw [getLsbD_offBOf]
  rfl

theorem offJOf_even (w : Word) : (!(offJOf w).getLsbD 0) = true := by
  rw [getLsbD_offJOf]
  rfl

/-- The word `w` is the encoding of the well-formed instruction `i`. -/
def Spells (w : Word) (i : Instr) : Prop := i.wellFormed = true ∧ encode i = w

section
variable {w : Word} {i : Instr}

theorem spells_of_decodeBranch (ho : opcodeOf w = 0b1100011#7) (h : decodeBranch w = some i) : Spells w i := by
  unfold decodeBranch at h
  split_ifs at h <;> cases h <;> exact ⟨offBOf_even w, encB_of_fields ‹_› ho⟩

theorem spells_of_decodeLoad (ho : opcodeOf w = 0b0000011#7) (h : decodeLoad w = some i) : Spells w i := by
  unfold decodeLoad at h
  split_ifs at h <;> cases h <;> exact ⟨rfl, encI_of_fields ‹_› ho⟩

theorem spells_of_decodeStore (ho : opcodeOf w = 0b0100011#7) (h : decodeStore w = some i) : Spells w i := by
  unfold decodeStore at h
  split_ifs at h <;> cases h <;> exact ⟨rfl, encS_of_fields ‹_› ho⟩

theorem spells_of_decodeOpImm (ho : opcodeOf w = 0b0010011#7) (h : decodeOpImm w = some i) : Spells w i := by
  unfold decodeOpImm at h
  split_ifs at h with h0 h2 h3 h4 h6 h7 h1 hl hr ha <;> cases h
  case pos | pos | pos | pos | pos | pos => exact ⟨rfl, encI_of_fields ‹_› ho⟩
  case pos => exact ⟨rfl, encR_of_fields hl h1 ho⟩
  case pos => exact ⟨rfl, encR_of_fields hr (by bv_omega) ho⟩
  case pos => exact ⟨rfl, encR_of_fields ha (by bv_omega) ho⟩

theorem spells_of_decodeOpBase (ho : opcodeOf w = 0b0110011#7) (h7 : funct7Of w = 0b0000000#7)
    (h : decodeOpBase w = some i) : Spells w i := by
  unfold decodeOpBase at h
  split_ifs at h with h0 h1 h2 h3 h4 h5 h6 <;> cases h
  case neg => exact ⟨rfl, encR_of_fields h7 (by bv_omega) ho⟩
  all_goals exact ⟨rfl, encR_of_fields h7 ‹_› ho⟩

theorem spells_of_decodeOpAlt (ho : opcodeOf w = 0b0110011#7) (h7 : funct7Of w = 0b0100000#7)
    (h : decodeOpAlt w = some i) : Spells w i := by
  unfold decodeOpAlt at h
  split_ifs at h <;> cases h <;> exact ⟨rfl, encR_of_fields h7 ‹_› ho⟩

theorem spells_of_decodeMulDiv (ho : opcodeOf w = 0b0110011#7) (h7 : funct7Of w = 0b0000001#7)
    (h : decodeMulDiv w = some i) : Spells w i := by
  unfold decodeMulDiv at h
  split_ifs at h with h0 h1 h2 h3 h4 h5 h6 <;> cases h
  case neg => exact ⟨rfl, encR_of_fields h7 (by bv_omega) ho⟩
  all_goals exact ⟨rfl, encR_of_fields h7 ‹_› ho⟩

theorem spells_of_decodeOp (ho : opcodeOf w = 0b0110011#7) (h : decodeOp w = some i) : Spells w i := by
  unfold decodeOp at h
  split_ifs at h with hb ha hm
  · exact spells_of_decodeOpBase ho hb h
  · exact spells_of_decodeOpAlt ho ha h
  · exact spells_of_decodeMulDiv ho hm h

theorem spells_of_decodeMiscMem (ho : opcodeOf w = 0b0001111#7) (h : decodeMiscMem w = some i) : Spells w i := by
  unfold decodeMiscMem at h
  split_ifs at h with h0 h1 <;> cases h
  · refine ⟨rfl, ?_⟩
    rw [encode, fence_fields_append, encI_of_fields h0 ho]
  · exact ⟨rfl, encI_of_fields h1 ho⟩

theorem spells_of_decodeSystem (ho : opcodeOf w = 0b1110011#7) (h : decodeSystem w = some i) : Spells w i := by
  unfold decodeSystem at h
  split_ifs at h with h1 h2 h3 h5 h6 h7 he hb hu hw <;> cases h
  case pos | pos | pos | pos | pos | pos => exact ⟨rfl, encI_of_fields ‹_› ho⟩
  case pos => exact ⟨rfl, he ▸ rfl⟩
  case pos => exact ⟨rfl, hb ▸ rfl⟩
  case pos => exact ⟨rfl, hu ▸ rfl⟩
  case pos => exact ⟨rfl, hw ▸ rfl⟩

theorem spells_of_decodeAdmitted (h : decodeAdmitted w = some i) : Spells w i := by
  by_cases hm : opcodeOf w ∈ admittedOpcodes
  · simp only [admittedOpcodes, List.mem_cons, List.not_mem_nil, or_false] at hm
    rcases hm with ho | ho | ho | ho | ho | ho | ho | ho | ho | ho | ho
    · rw [decodeAdmitted_of_lui ho] at h
      cases h
      exact ⟨rfl, by rw [encode, ← ho, encU_fields]⟩
    · rw [decodeAdmitted_of_auipc ho] at h
      cases h
      exact ⟨rfl, by rw [encode, ← ho, encU_fields]⟩
    · rw [decodeAdmitted_of_jal ho] at h
      cases h
      exact ⟨offJOf_even w, by rw [encode, ← ho, encJ_fields]⟩
    · rw [decodeAdmitted_of_jalr ho] at h
      split_ifs at h with h0
      cases h
      exact ⟨rfl, encI_of_fields h0 ho⟩
    · exact spells_of_decodeBranch ho (decodeAdmitted_of_branch ho ▸ h)
    · exact spells_of_decodeLoad ho (decodeAdmitted_of_load ho ▸ h)
    · exact spells_of_decodeStore ho (decodeAdmitted_of_store ho ▸ h)
    · exact spells_of_decodeOpImm ho (decodeAdmitted_of_opImm ho ▸ h)
    · exact spells_of_decodeOp ho (decodeAdmitted_of_op ho ▸ h)
    · exact spells_of_decodeMiscMem ho (decodeAdmitted_of_miscMem ho ▸ h)
    · exact spells_of_decodeSystem ho (decodeAdmitted_of_system ho ▸ h)
  · rw [decodeAdmitted_of_other hm] at h
    cases h

end

/-- Settles O2: every branch of the decoder keeps all fields of the word, and has tested those it does not keep. -/
theorem encodeDecodeRoundTrip : Obligations.EncodeDecodeRoundTrip :=
  fun w i h => spells_of_decodeAdmitted ((decode_eq_instr_iff w i).mp h)

end Sys2Proof.Machine
end

section
/-! SUPPORT. The opcode map and the decoder (R133, R134): the bits a row fixes decide the instruction, an instruction's
encoding selects its own row, and so a word that selects no row is no instruction. -/

namespace Sys2Proof.Machine

/-! ## The fields that decide the instruction -/

section
variable {w v : Word}

theorem mnemonic_decodeBranch (h3 : funct3Of w = funct3Of v) :
    (decodeBranch w).map Instr.mnemonic = (decodeBranch v).map Instr.mnemonic := by
  simp only [decodeBranch, h3, apply_ite (Option.map Instr.mnemonic), Option.map_some, Instr.mnemonic]

theorem mnemonic_decodeLoad (h3 : funct3Of w = funct3Of v) :
    (decodeLoad w).map Instr.mnemonic = (decodeLoad v).map Instr.mnemonic := by
  simp only [decodeLoad, h3, apply_ite (Option.map Instr.mnemonic), Option.map_some, Instr.mnemonic]

theorem mnemonic_decodeStore (h3 : funct3Of w = funct3Of v) :
    (decodeStore w).map Instr.mnemonic = (decodeStore v).map Instr.mnemonic := by
  simp only [decodeStore, h3, apply_ite (Option.map Instr.mnemonic), Option.map_some, Instr.mnemonic]

theorem mnemonic_decodeMiscMem (h3 : funct3Of w = funct3Of v) :
    (decodeMiscMem w).map Instr.mnemonic = (decodeMiscMem v).map Instr.mnemonic := by
  simp only [decodeMiscMem, h3, apply_ite (Option.map Instr.mnemonic), Option.map_some, Instr.mnemonic]

theorem mnemonic_decodeOp (h3 : funct3Of w = funct3Of v) (h7 : funct7Of w = funct7Of v) :
    (decodeOp w).map Instr.mnemonic = (decodeOp v).map Instr.mnemonic := by
  simp only [decodeOp, decodeOpBase, decodeOpAlt, decodeMulDiv, h3, h7, apply_ite (Option.map Instr.mnemonic),
    Option.map_some, Instr.mnemonic]

/-- Only the shifts look at funct7. -/
theorem mnemonic_decodeOpImm (h3 : funct3Of w = funct3Of v)
    (h7 : funct3Of v = 0b001#3 ∨ funct3Of v = 0b101#3 → funct7Of w = funct7Of v) :
    (decodeOpImm w).map Instr.mnemonic = (decodeOpImm v).map Instr.mnemonic := by
  by_cases hs : funct3Of v = 0b001#3 ∨ funct3Of v = 0b101#3
  · simp only [decodeOpImm, h3, h7 hs, apply_ite (Option.map Instr.mnemonic), Option.map_some, Instr.mnemonic]
  · have hv : funct3Of v = 0#3 ∨ funct3Of v = 2#3 ∨ funct3Of v = 3#3 ∨ funct3Of v = 4#3 ∨ funct3Of v = 6#3 ∨
        funct3Of v = 7#3 := by bv_omega
    rcases hv with hv | hv | hv | hv | hv | hv <;> simp [decodeOpImm, h3, hv, Instr.mnemonic]

/-- Only ECALL, EBREAK, URET and WFI fix every bit. -/
theorem mnemonic_decodeSystem (h3 : funct3Of w = funct3Of v) (h4 : funct3Of v ≠ 0b100#3)
    (hw : funct3Of v = 0b000#3 → w = v) :
    (decodeSystem w).map Instr.mnemonic = (decodeSystem v).map Instr.mnemonic := by
  by_cases h0 : funct3Of v = 0b000#3
  · rw [hw h0]
  · have hv : funct3Of v = 1#3 ∨ funct3Of v = 2#3 ∨ funct3Of v = 3#3 ∨ funct3Of v = 5#3 ∨ funct3Of v = 6#3 ∨
        funct3Of v = 7#3 := by bv_omega
    rcases hv with hv | hv | hv | hv | hv | hv <;> simp [decodeSystem, h3, hv, Instr.mnemonic]

end

/-! ## A word that selects a row is an instruction of that row (R133) -/

/-- A field that the row's mask covers is the pattern's. -/
theorem extractLsb'_of_selects {r : OpcodeRow} {w : Word} (h : r.selects w = true) {lo n : Nat}
    (hm : r.mask.extractLsb' lo n = BitVec.allOnes n) : w.extractLsb' lo n = r.pattern.extractLsb' lo n := by
  rw [← beq_iff_eq.mp h, BitVec.extractLsb'_and, hm, BitVec.and_allOnes]

/-- The mask of a row covers every field that tells it from the other rows of its opcode, and its pattern is such a word. -/
theorem opcodeMap_masks : ∀ r ∈ opcodeMap,
    (decodeAdmitted r.pattern).map Instr.mnemonic = some r.mnemonic ∧
    opcodeOf r.mask = BitVec.allOnes 7 ∧ opcodeOf r.pattern ∈ admittedOpcodes ∧
    (opcodeOf r.pattern ∉ [0b0110111#7, 0b0010111#7, 0b1101111#7] → funct3Of r.mask = BitVec.allOnes 3) ∧
    (opcodeOf r.pattern = 0b0110011#7 → funct7Of r.mask = BitVec.allOnes 7) ∧
    (opcodeOf r.pattern = 0b0010011#7 → funct3Of r.pattern = 0b001#3 ∨ funct3Of r.pattern = 0b101#3 →
      funct7Of r.mask = BitVec.allOnes 7) ∧
    (opcodeOf r.pattern = 0b1110011#7 → funct3Of r.pattern ≠ 0b100#3 ∧
      (funct3Of r.pattern = 0b000#3 → r.mask = BitVec.allOnes 32)) := by
  decide

theorem mnemonic_of_selects {r : OpcodeRow} {w : Word} (hr : r ∈ opcodeMap) (h : r.selects w = true) :
    (decodeAdmitted w).map Instr.mnemonic = some r.mnemonic := by
  obtain ⟨hpat, hm, hadm, hm3, hm7, hshift, hsys⟩ := opcodeMap_masks r hr
  have hw : opcodeOf w = opcodeOf r.pattern := extractLsb'_of_selects h hm
  have h3 (hn : opcodeOf r.pattern ∉ [0b0110111#7, 0b0010111#7, 0b1101111#7]) : funct3Of w = funct3Of r.pattern :=
    extractLsb'_of_selects h (hm3 hn)
  rw [← hpat]
  simp only [admittedOpcodes, List.mem_cons, List.not_mem_nil, or_false] at hadm
  rcases hadm with ho | ho | ho | ho | ho | ho | ho | ho | ho | ho | ho
  · rw [decodeAdmitted_of_lui (hw.trans ho), decodeAdmitted_of_lui ho]
    rfl
  · rw [decodeAdmitted_of_auipc (hw.trans ho), decodeAdmitted_of_auipc ho]
    rfl
  · rw [decodeAdmitted_of_jal (hw.trans ho), decodeAdmitted_of_jal ho]
    rfl
  all_goals replace h3 := h3 (by rw [ho]; decide)
  · rw [decodeAdmitted_of_jalr (hw.trans ho), decodeAdmitted_of_jalr ho, h3]
    split_ifs <;> rfl
  · rw [decodeAdmitted_of_branch (hw.trans ho), decodeAdmitted_of_branch ho, mnemonic_decodeBranch h3]
  · rw [decodeAdmitted_of_load (hw.trans ho), decodeAdmitted_of_load ho, mnemonic_decodeLoad h3]
  · rw [decodeAdmitted_of_store (hw.trans ho), decodeAdmitted_of_store ho, mnemonic_decodeStore h3]
  · rw [decodeAdmitted_of_opImm (hw.trans ho), decodeAdmitted_of_opImm ho,
      mnemonic_decodeOpImm h3 fun hs => extractLsb'_of_selects h (hshift ho hs)]
  · rw [decodeAdmitted_of_op (hw.trans ho), decodeAdmitted_of_op ho,
      mnemonic_decodeOp h3 (extractLsb'_of_selects h (hm7 ho))]
  · rw [decodeAdmitted_of_miscMem (hw.trans ho), decodeAdmitted_of_miscMem ho, mnemonic_decodeMiscMem h3]
  · obtain ⟨h4, hall⟩ := hsys ho
    have heq (h0 : funct3Of r.pattern = 0b000#3) : w = r.pattern := by
      rw [← beq_iff_eq.mp h, hall h0, BitVec.and_allOnes]
    rw [decodeAdmitted_of_system (hw.trans ho), decodeAdmitted_of_system ho, mnemonic_decodeSystem h3 h4 heq]

/-! ## An instruction selects its row (R133) -/

theorem eq_of_mnemonic_eq {r r' : OpcodeRow} (hr : r ∈ opcodeMap) (hr' : r' ∈ opcodeMap) (h : r.mnemonic = r'.mnemonic) :
    r = r' :=
  List.inj_on_of_nodup_map (by decide : (opcodeMap.map OpcodeRow.mnemonic).Nodup) hr hr' h

end Sys2Proof.Machine

namespace Sys2Proof.Laws.FixedBits

theorem row_selects_encode : ∀ i : Instr, Statement i
  | .lui .. => lui .. | .auipc .. => auipc .. | .jal .. => jal .. | .jalr .. => jalr .. | .beq .. => beq ..
  | .bne .. => bne .. | .blt .. => blt .. | .bge .. => bge .. | .bltu .. => bltu .. | .bgeu .. => bgeu ..
  | .lb .. => lb .. | .lh .. => lh .. | .lw .. => lw .. | .lbu .. => lbu .. | .lhu .. => lhu .. | .sb .. => sb ..
  | .sh .. => sh .. | .sw .. => sw .. | .addi .. => addi .. | .slti .. => slti .. | .sltiu .. => sltiu ..
  | .xori .. => xori .. | .ori .. => ori .. | .andi .. => andi .. | .slli .. => slli .. | .srli .. => srli ..
  | .srai .. => srai .. | .add .. => add .. | .sub .. => sub .. | .sll .. => sll .. | .slt .. => slt ..
  | .sltu .. => sltu .. | .xor .. => xor .. | .srl .. => srl .. | .sra .. => sra .. | .or .. => or ..
  | .and .. => and .. | .mul .. => mul .. | .mulh .. => mulh .. | .mulhsu .. => mulhsu .. | .mulhu .. => mulhu ..
  | .div .. => div .. | .divu .. => divu .. | .rem .. => rem .. | .remu .. => remu .. | .fence .. => fence ..
  | .fenceI .. => fenceI .. | .ecall => ecall | .ebreak => ebreak | .uret => uret | .wfi => wfi
  | .csrrw .. => csrrw .. | .csrrs .. => csrrs .. | .csrrc .. => csrrc .. | .csrrwi .. => csrrwi ..
  | .csrrsi .. => csrrsi .. | .csrrci .. => csrrci ..

end Sys2Proof.Laws.FixedBits

namespace Sys2Proof.Machine

theorem exists_row_of_decodeAdmitted {w : Word} {i : Instr} (h : decodeAdmitted w = some i) :
    ∃ r ∈ opcodeMap, r.mnemonic = i.mnemonic ∧ r.selects w = true := by
  obtain ⟨-, he⟩ := spells_of_decodeAdmitted h
  exact he ▸ Laws.FixedBits.row_selects_encode i

theorem decode_of_not_admitted {w : Word} (h0 : w ≠ 0x00000000#32) (h : decodeAdmitted w = none) :
    decode w = if opcodeOf w ∈ refusedOpcodes then .refused else .illegal := by
  unfold decode
  rw [if_neg h0, h]

/-- Settles O3: a row's bits decide the mnemonic, which names one row, and an instruction's encoding selects its own row. -/
theorem decoderFollowsOpcodeMap : Obligations.DecoderFollowsOpcodeMap := by
  refine ⟨fun w r r' hr hr' h h' => ?_, fun w r hr => ⟨fun h => ?_, ?_⟩, by decide, fun w h0 hn => ?_⟩
  · exact eq_of_mnemonic_eq hr hr' (Option.some.inj ((mnemonic_of_selects hr h).symm.trans (mnemonic_of_selects hr' h')))
  · obtain ⟨i, hi, hm⟩ := Option.map_eq_some_iff.mp (mnemonic_of_selects hr h)
    exact ⟨i, (decode_eq_instr_iff w i).mpr hi, hm⟩
  · rintro ⟨i, hi, hm⟩
    obtain ⟨r', hr', hm', hs⟩ := exists_row_of_decodeAdmitted ((decode_eq_instr_iff w i).mp hi)
    rwa [eq_of_mnemonic_eq hr hr' (hm.symm.trans hm'.symm)]
  · refine decode_of_not_admitted h0 (Option.eq_none_iff_forall_ne_some.mpr fun i hi => ?_)
    obtain ⟨r, hr, -, hs⟩ := exists_row_of_decodeAdmitted hi
    rw [hn r hr] at hs
    cases hs

end Sys2Proof.Machine
end

section
/-! SUPPORT. The words that are no instruction: the field values that select nothing (R136), the refused opcodes (R137), and the
steps that execute such words. -/

namespace Sys2Proof.Machine

/-! ## Field values that select no instruction (R136) -/

section
variable {α : Type} {a v : α} {l m : List α}

theorem notMem_of_mem (h : a ∈ l) (hd : ∀ x ∈ l, x ∉ m := by decide) : a ∉ m := hd a h

theorem notMem_of_eq (h : a = v) (hd : v ∉ m := by decide) : a ∉ m := h ▸ hd

end

section
variable {w : Word}

theorem decodeBranch_eq_none (h : funct3Of w ∉ [0b000#3, 0b001#3, 0b100#3, 0b101#3, 0b110#3, 0b111#3]) :
    decodeBranch w = none := by
  simp only [List.mem_cons, List.not_mem_nil, or_false, not_or] at h
  simp [decodeBranch, h]

theorem decodeLoad_eq_none (h : funct3Of w ∉ [0b000#3, 0b001#3, 0b010#3, 0b100#3, 0b101#3]) : decodeLoad w = none := by
  simp only [List.mem_cons, List.not_mem_nil, or_false, not_or] at h
  simp [decodeLoad, h]

theorem decodeStore_eq_none (h : funct3Of w ∉ [0b000#3, 0b001#3, 0b010#3]) : decodeStore w = none := by
  simp only [List.mem_cons, List.not_mem_nil, or_false, not_or] at h
  simp [decodeStore, h]

theorem decodeMiscMem_eq_none (h : funct3Of w ∉ [0b000#3, 0b001#3]) : decodeMiscMem w = none := by
  simp only [List.mem_cons, List.not_mem_nil, or_false, not_or] at h
  simp [decodeMiscMem, h]

theorem decodeSystem_eq_none (h : funct3Of w ∉ [0b001#3, 0b010#3, 0b011#3, 0b101#3, 0b110#3, 0b111#3])
    (hw : w ∉ [0x00000073#32, 0x00100073#32, 0x00200073#32, 0x10500073#32]) : decodeSystem w = none := by
  simp only [List.mem_cons, List.not_mem_nil, or_false, not_or] at h hw
  simp [decodeSystem, h, hw]

/-- ECALL, EBREAK, URET and WFI have funct3 000. -/
theorem notMem_exactWords_of_funct3 (h : funct3Of w ≠ 0b000#3) :
    w ∉ [0x00000073#32, 0x00100073#32, 0x00200073#32, 0x10500073#32] := by
  have h0 : ∀ v ∈ [0x00000073#32, 0x00100073#32, 0x00200073#32, 0x10500073#32], funct3Of v = 0b000#3 := by
    simp [funct3Of]
  exact fun hm => h (h0 w hm)

theorem decodeOp_eq_none_of_funct7 (h : funct7Of w ∉ [0b0000000#7, 0b0100000#7, 0b0000001#7]) : decodeOp w = none := by
  simp only [List.mem_cons, List.not_mem_nil, or_false, not_or] at h
  simp [decodeOp, h]

theorem decodeOp_eq_none_of_alt (h7 : funct7Of w = 0b0100000#7) (h : funct3Of w ∉ [0b000#3, 0b101#3]) :
    decodeOp w = none := by
  simp only [List.mem_cons, List.not_mem_nil, or_false, not_or] at h
  simp [decodeOp, decodeOpAlt, h7, h]

theorem decodeOpImm_eq_none_of_slli (h3 : funct3Of w = 0b001#3) (h : funct7Of w ≠ 0b0000000#7) : decodeOpImm w = none := by
  simp [decodeOpImm, h3, h]

theorem decodeOpImm_eq_none_of_shiftRight (h3 : funct3Of w = 0b101#3) (h : funct7Of w ∉ [0b0000000#7, 0b0100000#7]) :
    decodeOpImm w = none := by
  simp only [List.mem_cons, List.not_mem_nil, or_false, not_or] at h
  simp [decodeOpImm, h3, h]

/-- A shift amount of 32 or more sets bit 25, which no shift has in its funct7. -/
theorem funct7_not_mem_of_bit (h : w.getLsbD 25 = true) : funct7Of w ∉ [0b0000000#7, 0b0100000#7] := by
  have hb : (funct7Of w).getLsbD 0 = true := by simpa [funct7Of] using h
  intro hm
  simp only [List.mem_cons, List.not_mem_nil, or_false] at hm
  rcases hm with hm | hm <;> simp [hm] at hb

/-! ## Illegal and refused words (R134) -/

theorem decode_eq_illegal {op : BitVec 7} {d : Option Instr} (h0 : w ≠ 0x00000000#32) (ho : opcodeOf w = op)
    (hd : decodeAdmitted w = d) (hn : d = none) (hr : op ∉ refusedOpcodes := by decide) : decode w = .illegal := by
  rw [decode_of_not_admitted h0 (hd.trans hn), if_neg (ho ▸ hr)]

/-- The opcodes R133 and R137 leave unused. -/
theorem decode_eq_illegal_of_other (h0 : w ≠ 0x00000000#32) (h : opcodeOf w ∉ admittedOpcodes ++ refusedOpcodes) :
    decode w = .illegal := by
  rw [List.mem_append, not_or] at h
  obtain ⟨ha, hr⟩ := h
  exact decode_eq_illegal h0 rfl (decodeAdmitted_of_other ha) rfl hr

/-- An opcode of a 32-bit word ends in 11. -/
theorem opcode_not_mem_of_low_bits (h : w.extractLsb' 0 2 ≠ 0b11#2) : opcodeOf w ∉ admittedOpcodes ++ refusedOpcodes := by
  have hw : (opcodeOf w).extractLsb' 0 2 = w.extractLsb' 0 2 := by
    rw [opcodeOf, BitVec.extractLsb'_extractLsb'_of_le (by decide)]
  exact fun hm => h (hw ▸ (by decide : ∀ op ∈ admittedOpcodes ++ refusedOpcodes, op.extractLsb' 0 2 = 0b11#2) _ hm)

theorem decode_eq_refused (h : opcodeOf w ∈ refusedOpcodes) : decode w = .refused := by
  have h0 : w ≠ 0x00000000#32 := by
    rintro rfl
    exact absurd h (by decide)
  have ha : opcodeOf w ∉ admittedOpcodes := (by decide : ∀ op ∈ refusedOpcodes, op ∉ admittedOpcodes) _ h
  rw [decode_of_not_admitted h0 (decodeAdmitted_of_other ha), if_pos h]

end

/-! ## Executing them (R136, R137, R350) -/

theorem raised_raise {s : State} (h : s.ctl.trapPending = false) (c v : Word) : Raised c v s (raise c v s) := by
  rw [raise_of_not_pending h]
  constructor
  case external | timer => exact ⟨rfl, rfl⟩
  case csrs | counters => constructor <;> rfl
  case registers | fp | memory => exact fun _ => rfl
  all_goals rfl

theorem execWord_of_illegal {w : Word} (h : decode w = .illegal) (s : State) :
    execWord exec w s = .next (raise causeIllegalInstruction 0#32 s) := by
  unfold execWord
  rw [h]

theorem check_of_noEvent {s : State} (h : NoEvent s) : check s = .nothing (refreshUip s) := by
  obtain ⟨ht, hi⟩ := h
  rcases check_cases s with ⟨hp, -⟩ | ⟨hp, -⟩ | ⟨-, hu, hx, h8, -⟩ | ⟨-, hu, -, hs, h0, -⟩ |
    ⟨-, hu, -, -, hm, h4, -⟩ | ⟨-, -, hc⟩
  · rw [ht] at hp; cases hp
  · rw [ht] at hp; cases hp
  · exact absurd ⟨hx, h8⟩ (hi hu).1
  · exact absurd ⟨hs, h0⟩ (hi hu).2.1
  · exact absurd ⟨hm, h4⟩ (hi hu).2.2
  · exact hc

/-- Settles O4: each class has an opcode that is not refused and field values that select no instruction. -/
theorem illegalWordsRaise : Obligations.IllegalWordsRaise := by
  refine ⟨fun w h0 => ?_, fun w s hd hp => ⟨_, execWord_of_illegal hd s, raised_raise hp _ _⟩⟩
  refine ⟨fun h => ?a, fun h => ?b, fun ho h => ?b_load, fun ho h => ?b_store, fun ho h hb => ?b_shift, fun ho h => ?c_jalr,
    fun ho h => ?c_branch, fun ho h => ?c_load, fun ho h => ?c_store, fun ho h => ?c_miscMem, fun ho h => ?c_system,
    fun ho h => ?d, fun ho h7 h => ?d_alt, fun ho h3 h => ?e_slli, fun ho h3 h => ?e_shiftRight, fun ho h3 h => ?f,
    fun h => ?g⟩
  case a => exact decode_eq_illegal_of_other h0 (opcode_not_mem_of_low_bits h)
  case b => exact decode_eq_illegal_of_other h0 (notMem_of_mem h)
  case b_load => exact decode_eq_illegal h0 ho (decodeAdmitted_of_load ho) (decodeLoad_eq_none (notMem_of_mem h))
  case c_load => exact decode_eq_illegal h0 ho (decodeAdmitted_of_load ho) (decodeLoad_eq_none (notMem_of_eq h))
  case b_store => exact decode_eq_illegal h0 ho (decodeAdmitted_of_store ho) (decodeStore_eq_none (notMem_of_eq h))
  case c_store => exact decode_eq_illegal h0 ho (decodeAdmitted_of_store ho) (decodeStore_eq_none (notMem_of_mem h))
  case b_shift =>
    have h7 := funct7_not_mem_of_bit hb
    refine decode_eq_illegal h0 ho (decodeAdmitted_of_opImm ho) ?_
    simp only [List.mem_cons, List.not_mem_nil, or_false] at h
    rcases h with h3 | h3
    · exact decodeOpImm_eq_none_of_slli h3 fun h => h7 (h ▸ List.mem_cons_self)
    · exact decodeOpImm_eq_none_of_shiftRight h3 h7
  case c_jalr => exact decode_eq_illegal h0 ho (decodeAdmitted_of_jalr ho) (if_neg h)
  case c_branch => exact decode_eq_illegal h0 ho (decodeAdmitted_of_branch ho) (decodeBranch_eq_none (notMem_of_mem h))
  case c_miscMem => exact decode_eq_illegal h0 ho (decodeAdmitted_of_miscMem ho) (decodeMiscMem_eq_none (notMem_of_mem h))
  case c_system =>
    exact decode_eq_illegal h0 ho (decodeAdmitted_of_system ho)
      (decodeSystem_eq_none (notMem_of_eq h) (notMem_exactWords_of_funct3 (ne_of_eq_of_ne h (by decide))))
  case f => exact decode_eq_illegal h0 ho (decodeAdmitted_of_system ho) (decodeSystem_eq_none (notMem_of_eq h3) h)
  case d => exact decode_eq_illegal h0 ho (decodeAdmitted_of_op ho) (decodeOp_eq_none_of_funct7 h)
  case d_alt => exact decode_eq_illegal h0 ho (decodeAdmitted_of_op ho) (decodeOp_eq_none_of_alt h7 h)
  case e_slli => exact decode_eq_illegal h0 ho (decodeAdmitted_of_opImm ho) (decodeOpImm_eq_none_of_slli h3 h)
  case e_shiftRight => exact decode_eq_illegal h0 ho (decodeAdmitted_of_opImm ho) (decodeOpImm_eq_none_of_shiftRight h3 h)
  case g =>
    exact decode_eq_illegal_of_other h0 (by
      simpa only [opcodeOf, admittedOpcodes, refusedOpcodes, List.cons_append, List.nil_append] using h)

/-- Settles O5: the opcode decides REFUSED, and the step reaches the word when the check finds nothing. -/
theorem refusedWordsAreRefused : Obligations.RefusedWordsAreRefused := by
  refine fun w h => ⟨decode_eq_refused h, fun s ⟨ha, hr, hs, hp⟩ hf hn => ?_⟩
  rw [step_of_running ha hr]
  exact runCore_of_refuses ⟨hs, hp, w, hf, .opcode _ (decode_eq_refused h) (check_of_noEvent hn)⟩

end Sys2Proof.Machine
end

section
/-! SUPPORT. The integer computational instructions (R170 to R192): the completion they share, and their results as arithmetic. -/

namespace Sys2Proof.Machine

/-! ## Completing with a register written (R170, R310, R312) -/

theorem wroteRegister_completeAt (rd : RegIdx) (v target : Word) (s : State) :
    WroteRegister rd v target s (completeAt target (s.setX rd v)) where
  result := by simp [getX_setX_self]
  registers i hi := by simp [getX_setX_of_ne s hi]
  csrs := by constructor <;> simp
  memory a := by simp
  completed :=
    { pc := by simp
      counted := by constructor <;> simp
      fp := fun i => by simp
      system := by constructor <;> simp }

theorem wroteRegister_complete (rd : RegIdx) (v : Word) (s : State) :
    WroteRegister rd v (s.pc + 4#32) s (complete (s.setX rd v)) := by
  have h : complete (s.setX rd v) = completeAt ((s.setX rd v).pc + 4#32) (s.setX rd v) := rfl
  rw [h, setX_pc]
  exact wroteRegister_completeAt rd v _ s

/-- An instruction whose meaning is `writeResult` runs, from its own encoding, to `v` in `rd` and nothing else changed. -/
theorem runsTo_of_writeResult {i : Instr} {w : Word} {rd : RegIdx} {v : Word} {s : State} (hi : i.wellFormed = true)
    (hw : encode i = w) (he : exec i s = writeResult rd v s) : RunsTo w i s (WroteRegister rd v (s.pc + 4#32) s) :=
  ⟨hw ▸ decodeEncodeRoundTrip i hi, _, he, wroteRegister_complete rd v s⟩

/-! ## Results as arithmetic (R171) -/

theorem boolWord_decide (p : Prop) [Decidable p] : boolWord (decide p) = if p then 1#32 else 0#32 := by simp [boolWord]

theorem toNat_shiftLeft_eq_mul (a : Word) (n : Nat) : (a <<< n).toNat = a.toNat * 2 ^ n % 2 ^ 32 := by
  rw [BitVec.toNat_shiftLeft, Nat.shiftLeft_eq]

theorem toNat_ushiftRight_eq_div (a : Word) (n : Nat) : (a >>> n).toNat = a.toNat / 2 ^ n := by
  rw [BitVec.toNat_ushiftRight, Nat.shiftRight_eq_div_pow]

theorem toInt_sshiftRight_eq_div (a : Word) (n : Nat) : (a.sshiftRight n).toInt = a.toInt / 2 ^ n := by
  rw [BitVec.toInt_sshiftRight, Int.shiftRight_eq_div_pow, Nat.cast_pow, Nat.cast_ofNat]

/-- The low five bits are the value modulo 32. -/
theorem shiftAmount_eq_mod (v : Word) : shiftAmount v = v.toNat % 32 := by
  rw [shiftAmount, BitVec.extractLsb'_toNat, Nat.shiftRight_zero]

/-! ## The statements -/

/-- Settles O9: the shifts of the words are the product and the quotients; another funct7 selects no instruction. -/
theorem shiftImmediateResults : Obligations.ShiftImmediateResults := by
  refine ⟨fun rd rs1 sh s => ⟨?slli, ?srli, ?srai⟩, fun f7 rd rs1 sh hf => ?illegal⟩
  case slli => exact ⟨_, toNat_shiftLeft_eq_mul _ _, runsTo_of_writeResult rfl rfl rfl⟩
  case srli => exact ⟨_, toNat_ushiftRight_eq_div _ _, runsTo_of_writeResult rfl rfl rfl⟩
  case srai => exact ⟨_, toInt_sshiftRight_eq_div _ _, runsTo_of_writeResult rfl rfl rfl⟩
  case illegal =>
    have ho := opcodeOf_encR f7 sh rs1 0b001#3 rd 0b0010011#7
    have h0 : encR f7 sh rs1 0b001#3 rd 0b0010011#7 ≠ 0x00000000#32 :=
      fun h => absurd (ho.symm.trans (congrArg opcodeOf h)) (by decide)
    exact decode_eq_illegal h0 ho (decodeAdmitted_of_opImm ho)
      (decodeOpImm_eq_none_of_slli (funct3Of_encR ..) (by rwa [funct7Of_encR]))

/-- Settles O11: as O9, with the amount the low five bits of `x[rs2]`; a comparison's word is 1 or 0. -/
theorem registerShiftsAndCompares : Obligations.RegisterShiftsAndCompares := by
  intro rd rs1 rs2 s a b
  have amount : shiftAmount b = b.toNat % 32 := shiftAmount_eq_mod b
  refine ⟨?sll, ?slt, ?sltu, ?srl, ?sra⟩
  case sll => exact ⟨_, amount ▸ toNat_shiftLeft_eq_mul _ _, runsTo_of_writeResult rfl rfl rfl⟩
  case slt => rw [← boolWord_decide]; exact runsTo_of_writeResult rfl rfl rfl
  case sltu => rw [← boolWord_decide]; exact runsTo_of_writeResult rfl rfl rfl
  case srl => exact ⟨_, amount ▸ toNat_ushiftRight_eq_div _ _, runsTo_of_writeResult rfl rfl rfl⟩
  case sra => exact ⟨_, amount ▸ toInt_sshiftRight_eq_div _ _, runsTo_of_writeResult rfl rfl rfl⟩

/-- Settles O7: both instructions are a `writeResult` of the rule's value. -/
theorem upperImmediateResults : Obligations.UpperImmediateResults :=
  fun _ _ _ => ⟨runsTo_of_writeResult rfl rfl rfl, runsTo_of_writeResult rfl rfl rfl⟩

/-- Settles O8: each instruction is a `writeResult` of the rule's value; a comparison's word is 1 or 0. -/
theorem registerImmediateResults : Obligations.RegisterImmediateResults := by
  intro rd rs1 imm s a b
  refine ⟨?addi, ?slti, ?sltiu, ?xori, ?ori, ?andi⟩
  case slti => rw [← boolWord_decide]; exact runsTo_of_writeResult rfl rfl rfl
  case sltiu => rw [← boolWord_decide]; exact runsTo_of_writeResult rfl rfl rfl
  case addi | xori | ori | andi => exact runsTo_of_writeResult rfl rfl rfl

/-- Settles O10: each instruction is a `writeResult` of the rule's value. -/
theorem registerRegisterResults : Obligations.RegisterRegisterResults := by
  intro rd rs1 rs2 s a b
  refine ⟨?add, ?sub, ?xor, ?or, ?and⟩
  case add | sub | xor | or | and => exact runsTo_of_writeResult rfl rfl rfl

end Sys2Proof.Machine
end

section
/-! SUPPORT. The control-transfer instructions (R210 to R219): what a jump and a branch complete with, and the halt of the step that
fetches from a bad target. -/

namespace Sys2Proof.Machine

/-! ## Completing with no register written (R210, R310, R312) -/

/-- A write to register 0 is no write (R22). -/
theorem WroteRegister.wroteNothing {v target : Word} {s t : State} (h : WroteRegister 0#5 v target s t) : WroteNothing target s t where
  registers i := by
    by_cases hi : i = 0#5
    · rw [hi, getX_zero, getX_zero]
    · exact h.registers i hi
  csrs := h.csrs
  memory := h.memory
  completed := h.completed

theorem wroteNothing_completeAt (target : Word) (s : State) : WroteNothing target s (completeAt target s) :=
  (wroteRegister_completeAt 0#5 0#32 target s).wroteNothing

theorem branchIf_next (taken : Bool) (off : BitVec 13) (s : State) :
    branchIf taken off s = .next (completeAt (if taken = true then s.pc + immB off else s.pc + 4#32) s) := by
  cases taken <;> rfl

/-! ## Jumps and branches from their encodings (R211 to R218) -/

section
variable (i : Instr) {w : Word} {s : State} (hi : i.wellFormed = true) (hw : encode i = w)
include hi hw

/-- An instruction that links in `rd` and jumps runs, from its own encoding, to the link in `rd` and `pc` at the target. -/
theorem runsTo_of_jump {rd : RegIdx} {link target : Word} (he : exec i s = .next (completeAt target (s.setX rd link))) :
    RunsTo w i s (WroteRegister rd link target s) :=
  ⟨hw ▸ decodeEncodeRoundTrip i hi, _, he, wroteRegister_completeAt rd link target s⟩

/-- A branch on a test that decides `p` runs, from its own encoding, to the target where `p` holds and to the next word otherwise. -/
theorem runsTo_of_branchIf {p : Prop} [Decidable p] {taken : Bool} {off : BitVec 13} (he : exec i s = branchIf taken off s)
    (hp : taken = true ↔ p) :
    RunsTo w i s (WroteNothing (if p then s.pc + off.signExtend 32 else s.pc + 4#32) s) := by
  refine ⟨hw ▸ decodeEncodeRoundTrip i hi, _, he.trans (branchIf_next ..), ?_⟩
  simp only [hp]
  exact wroteNothing_completeAt _ s

end

/-- Settles O15: the state whose register is written, and from which the target is computed, is the one before the instruction. -/
theorem jumpResults : Obligations.JumpResults := by
  refine ⟨fun rd off s heven => ?jal, fun rd rs1 imm s => ?jalr⟩
  case jal => exact runsTo_of_jump (.jal rd off) ((Bool.not_eq_true' _).mpr heven) rfl rfl
  case jalr => exact runsTo_of_jump (.jalr rd rs1 imm) rfl rfl rfl

theorem signedLess_iff (a b : Word) : signedLess a b = true ↔ a.toInt < b.toInt := decide_eq_true_iff

theorem unsignedLess_iff (a b : Word) : unsignedLess a b = true ↔ a.toNat < b.toNat := decide_eq_true_iff

theorem not_signedLess_iff (a b : Word) : (!signedLess a b) = true ↔ a.toInt ≥ b.toInt := by
  rw [Bool.not_eq_true', ← Bool.not_eq_true, signedLess_iff, not_lt]

theorem not_unsignedLess_iff (a b : Word) : (!unsignedLess a b) = true ↔ a.toNat ≥ b.toNat := by
  rw [Bool.not_eq_true', ← Bool.not_eq_true, unsignedLess_iff, not_lt]

/-- Settles O16: each branch is a `branchIf` on a test that decides the rule's comparison. -/
theorem branchResults : Obligations.BranchResults := by
  intro rs1 rs2 off s heven a b target next
  have hwf : (!off.getLsbD 0) = true := (Bool.not_eq_true' _).mpr heven
  refine ⟨?beq, ?bne, ?blt, ?bge, ?bltu, ?bgeu⟩
  case beq => exact runsTo_of_branchIf (.beq rs1 rs2 off) hwf rfl rfl beq_iff_eq
  case bne => exact runsTo_of_branchIf (.bne rs1 rs2 off) hwf rfl rfl bne_iff_ne
  case blt => exact runsTo_of_branchIf (.blt rs1 rs2 off) hwf rfl rfl (signedLess_iff a b)
  case bge => exact runsTo_of_branchIf (.bge rs1 rs2 off) hwf rfl rfl (not_signedLess_iff a b)
  case bltu => exact runsTo_of_branchIf (.bltu rs1 rs2 off) hwf rfl rfl (unsignedLess_iff a b)
  case bgeu => exact runsTo_of_branchIf (.bgeu rs1 rs2 off) hwf rfl rfl (not_unsignedLess_iff a b)

/-! ## A fetch that fails (R94, R305) -/

section
variable {s : State} {a : Word}

theorem fetch_of_misaligned (h : a.toNat % 4 ≠ 0) : fetch a s = .error (.misaligned .fetch a) := by
  rw [fetch, resolve_of_misaligned ⟨rfl, h⟩]

/-- Only the text segment allows a fetch (R85). -/
theorem fetch_of_not_text (h : a.toNat % 4 = 0) (hs : segmentOf s.params.memcfg s.heapPtr a.toNat ≠ some .text) :
    fetch a s = .error (.access .fetch a) := by
  have hal : ¬(mustAlign s.params .word = true ∧ a.toNat % Width.word.bytes ≠ 0) := fun ⟨_, hne⟩ => hne h
  cases hg : segmentOf s.params.memcfg s.heapPtr a.toNat with
  | none => rw [fetch, resolve_of_unmapped hal hg]
  | some g =>
    have hne : g ≠ .text := fun e => hs (e ▸ hg)
    rw [fetch, resolve_of_denied hal hg (policyAllows_fetch _ hne)]

/-- A core about to step whose fetch fails halts with the failure's cause and value. -/
theorem step_of_fetch_error {e : AccessFault} (h : AboutToStep s) (hf : fetch s.pc s = .error e) :
    step s = .next (haltException s.pc e.cause e.value s) := by
  rw [step_of_running h.agenda h.running]
  simp only [runCore, h.noStop, h.noPause, hf, Bool.false_eq_true, if_false]

end

theorem halted_haltException (p c v : Word) (s : State) : Halted .exception .terminated (haltException p c v s) :=
  ⟨rfl, rfl, rfl, rfl⟩

theorem faultRecord_haltException (p c v : Word) (s : State) : FaultRecord p c v (haltException p c v s) := ⟨rfl, rfl, rfl⟩

/-! ## Transfers to a bad target (R219) -/

theorem AboutToStep.of_sameSystem {s t : State} (h : AboutToStep s) (hs : SameSystem s t) : AboutToStep t where
  agenda := hs.agenda.trans h.agenda
  running := by rw [hs.runControl]; exact h.running
  noStop := by rw [hs.runControl]; exact h.noStop
  noPause := by rw [hs.runControl]; exact h.noPause

/-- Every control transfer completes, whatever its target. -/
theorem exec_completes_of_isTransfer {i : Instr} (h : isTransfer i = true) (s : State) :
    ∃ target t, exec i s = .next t ∧ Completed target s t := by
  cases i with
  | jal | jalr => exact ⟨_, _, rfl, (wroteRegister_completeAt ..).completed⟩
  | beq | bne | blt | bge | bltu | bgeu => exact ⟨_, _, branchIf_next .., (wroteNothing_completeAt ..).completed⟩
  | _ => cases h

/-- Settles O17: the transfer completes with the core still about to step, and that step's fetch from a bad target fails. -/
theorem badTargetsHaltAtTheNextFetch : Obligations.BadTargetsHaltAtTheNextFetch := by
  intro i s hi hs
  obtain ⟨target, t, he, hc⟩ := exec_completes_of_isTransfer hi s
  have ht : AboutToStep t := hs.of_sameSystem hc.system
  refine ⟨t, he, hc.system.controller, fun hmis => ?misaligned, fun hal hseg => ?outsideText⟩
  case misaligned =>
    exact ⟨_, step_of_fetch_error ht (fetch_of_misaligned hmis), halted_haltException .., faultRecord_haltException ..,
      fun _ => rfl⟩
  case outsideText =>
    exact ⟨_, step_of_fetch_error ht (fetch_of_not_text hal hseg), halted_haltException .., faultRecord_haltException ..,
      fun _ => rfl⟩

end Sys2Proof.Machine
end

section
/-! SUPPORT. The loads and the stores (R231 to R241): the value a load widens and the bytes a store leaves, said through the bytes of
memory, and the exception of an access that fails its check. -/

namespace Sys2Proof.Machine

/-! ## An access that fails (R89, R93) -/

/-- An access that is aligned as it must be and still fails its check fails with the access fault. -/
theorem resolve_of_ne_ok {p : Params} {hp a : Word} {w : Width} {k : AccessKind}
    (h : ¬(mustAlign p w = true ∧ a.toNat % w.bytes ≠ 0)) (hno : ∀ g, resolve p hp a w k ≠ .ok g) :
    resolve p hp a w k = .error (.access k a) := by
  cases hr : resolve p hp a w k with
  | ok g => exact absurd hr (hno g)
  | error e =>
    obtain ⟨hmis, -⟩ | ⟨-, rfl⟩ := resolve_error hr
    · exact absurd hmis h
    · rfl

/-! ## Loads (R231 to R235) -/

section
variable {s : State} {ea : Word} {w : Width} (rd : RegIdx) (widen : Dword → Word)

theorem loadTo_of_resolve_ok {g : Segment} (h : resolve s.params s.heapPtr ea w .load = .ok g) :
    loadTo rd ea w widen s =
      writeResult rd (widen (BitVec.ofNat 64 (leNat (s.mem.readBytes ea.toNat w.bytes)))) s := by
  rw [loadTo, memRead_of_resolve_ok h]

theorem loadTo_of_resolve_error {e : AccessFault} (h : resolve s.params s.heapPtr ea w .load = .error e) :
    loadTo rd ea w widen s = .next (raiseAccess e s) := by
  rw [loadTo, memRead_of_resolve_error h]

end

/-- The low bytes of `d` are the bytes of memory from `ea` up, the lowest address lowest (R86). -/
def HoldsBytes (s : State) (ea : Word) (w : Width) (d : Dword) : Prop :=
  ∀ k < w.bytes, d.extractLsb' (8 * k) 8 = s.byteAt (ea.toNat + k)

/-- An instruction whose meaning is `loadTo` loads what its widening makes of the bytes at `ea`. -/
theorem loadRule_of_loadTo {i : Instr} {rd : RegIdx} {ea : Word} {w : Width} {widen : Dword → Word} {v : Word} {s : State}
    (he : exec i s = loadTo rd ea w widen s) (hv : ∀ d, HoldsBytes s ea w d → widen d = v) : LoadRule i rd ea w v s where
  completes g hg := by
    have hd : HoldsBytes s ea w (BitVec.ofNat 64 (leNat (s.mem.readBytes ea.toNat w.bytes))) :=
      fun _ hk => extractLsb'_leNat_readBytes s.mem ea.toNat w hk
    refine ⟨_, he.trans (loadTo_of_resolve_ok rd widen hg), ?_⟩
    rw [hv _ hd]
    exact wroteRegister_complete rd v s
  misaligned hp ha hne :=
    ⟨_, he.trans (loadTo_of_resolve_error rd widen (resolve_of_misaligned ⟨ha, hne⟩ ..)), raised_raise hp ..⟩
  denied hp hal hno :=
    ⟨_, he.trans (loadTo_of_resolve_error rd widen (resolve_of_ne_ok hal hno)), raised_raise hp ..⟩

section
variable {s : State} {ea : Word} {d : Dword}

theorem HoldsBytes.setWidth_eight (h : HoldsBytes s ea .byte d) : d.setWidth 8 = s.byteAt (ea.toNat + 0) := by
  rw [← h 0 (by decide)]
  exact BitVec.setWidth_eq_extractLsb' (by decide)

theorem HoldsBytes.setWidth_sixteen (h : HoldsBytes s ea .half d) :
    d.setWidth 16 = s.byteAt (ea.toNat + 1) ++ s.byteAt (ea.toNat + 0) := by
  rw [← h 1 (by decide), ← h 0 (by decide), BitVec.extractLsb'_append_extractLsb'_eq_extractLsb' (by decide)]
  exact BitVec.setWidth_eq_extractLsb' (by decide)

theorem HoldsBytes.setWidth_thirtyTwo (h : HoldsBytes s ea .word d) : d.setWidth 32 = wordAt s ea :=
  (wordAt_of_bytes fun k hk => (h k hk).symm).symm

end

/-- Settles O18: each load is a `loadTo` whose widening cuts the doubleword read to the bytes of the access, and then extends it. -/
theorem loadResults : Obligations.LoadResults := by
  intro rd rs1 imm s ea b
  refine ⟨decodeEncodeRoundTrip (.lb rd rs1 imm) rfl, ?lb, decodeEncodeRoundTrip (.lh rd rs1 imm) rfl, ?lh,
    decodeEncodeRoundTrip (.lw rd rs1 imm) rfl, ?lw, decodeEncodeRoundTrip (.lbu rd rs1 imm) rfl, ?lbu,
    decodeEncodeRoundTrip (.lhu rd rs1 imm) rfl, ?lhu⟩
  case lb => exact loadRule_of_loadTo rfl fun _ hd => congrArg (BitVec.signExtend 32) hd.setWidth_eight
  case lh => exact loadRule_of_loadTo rfl fun _ hd => congrArg (BitVec.signExtend 32) hd.setWidth_sixteen
  case lw => exact loadRule_of_loadTo rfl fun _ hd => hd.setWidth_thirtyTwo
  case lbu => exact loadRule_of_loadTo rfl fun _ hd => congrArg (BitVec.setWidth 32) hd.setWidth_eight
  case lhu => exact loadRule_of_loadTo rfl fun _ hd => congrArg (BitVec.setWidth 32) hd.setWidth_sixteen

/-! ## Stores (R236 to R238) -/

section
variable {s : State} {ea : Word} {w : Width} (v : Word)

theorem storeAt_of_memWrite {m : State} (h : memWrite ea w (v.setWidth 64) s = .ok m) :
    storeAt ea w v s = .next (complete m) := by
  rw [storeAt, h]

theorem storeAt_of_resolve_error {e : AccessFault} (h : resolve s.params s.heapPtr ea w .store = .error e) :
    storeAt ea w v s = .next (raiseAccess e s) := by
  rw [storeAt, memWrite_of_resolve_error h]

end

/-- Completing after a write leaves the bytes of the value in memory, and changes nothing else (R91, R310, R312). -/
theorem wroteMemory_complete {s m : State} {ea : Word} {w : Width} {v : Dword} (hm : s.mem.wf)
    (h : memWrite ea w v s = .ok m) : WroteMemory ea.toNat w.bytes (fun k => v.extractLsb' (8 * k) 8) s (complete m) where
  stored _ hk := byteAt_of_memWrite hm h hk
  memory a ha := sameMemoryExcept_of_memWrite hm h a ha
  registers _ := by obtain ⟨-, rfl⟩ := memWrite_ok h; rfl
  csrs := by obtain ⟨-, rfl⟩ := memWrite_ok h; constructor <;> rfl
  completed := by
    obtain ⟨-, rfl⟩ := memWrite_ok h
    exact
      { pc := rfl
        counted := by constructor <;> rfl
        fp := fun _ => rfl
        system := by constructor <;> rfl }

/-- A register's value has the bytes of the doubleword it is handed to the write as. -/
theorem extractLsb'_toDword (v : Word) (lo n : Nat) : (v.setWidth 64).extractLsb' lo n = v.extractLsb' lo n := by
  rw [BitVec.extractLsb', BitVec.toNat_setWidth_of_le (by decide), BitVec.extractLsb']

/-- An instruction whose meaning is `storeAt` stores the low bytes of the register's value. -/
theorem storeRule_of_storeAt {i : Instr} {ea : Word} {w : Width} {v : Word} {s : State} (hm : s.mem.wf)
    (he : exec i s = storeAt ea w v s) : StoreRule i ea w (fun k => v.extractLsb' (8 * k) 8) s where
  completes g hg := by
    have hw := memWrite_of_resolve_ok hg (v.setWidth 64)
    refine ⟨_, he.trans (storeAt_of_memWrite v hw), ?_⟩
    simpa only [extractLsb'_toDword] using wroteMemory_complete hm hw
  misaligned hp ha hne :=
    ⟨_, he.trans (storeAt_of_resolve_error v (resolve_of_misaligned ⟨ha, hne⟩ ..)), raised_raise hp ..⟩
  denied hp hal hno :=
    ⟨_, he.trans (storeAt_of_resolve_error v (resolve_of_ne_ok hal hno)), raised_raise hp ..⟩

/-- Settles O19: each store is a `storeAt` of `x[rs2]`. -/
theorem storeResults : Obligations.StoreResults := by
  intro rs2 rs1 imm s hm ea byte
  refine ⟨decodeEncodeRoundTrip (.sb rs2 rs1 imm) rfl, ?sb, decodeEncodeRoundTrip (.sh rs2 rs1 imm) rfl, ?sh,
    decodeEncodeRoundTrip (.sw rs2 rs1 imm) rfl, ?sw⟩
  case sb | sh | sw => exact storeRule_of_storeAt hm rfl

end Sys2Proof.Machine
end

section
/-! SUPPORT. The multiply instructions (R251 to R254): the high half of an exact product is its quotient by 2^32, rounded down. -/

namespace Sys2Proof.Machine

theorem highHalf_eq_ofInt_div (p : Int) : highHalf p = BitVec.ofInt 32 (p / 2 ^ 32) := by
  apply BitVec.eq_of_toNat_eq
  rw [highHalf, BitVec.extractLsb'_toNat, Nat.shiftRight_eq_div_pow, BitVec.toNat_ofInt, BitVec.toNat_ofInt]
  omega

/-- The quotient of a signed word by any 32-bit operand, signed or unsigned, fits a signed word. -/
theorem toInt_highHalf_mul (a : Word) {y : Int} (hy : |y| < 2 ^ 32) :
    (highHalf (a.toInt * y)).toInt = a.toInt * y / 2 ^ 32 := by
  have ha : |a.toInt| ≤ 2 ^ 31 := abs_le.mpr ⟨a.le_toInt, a.toInt_lt.le⟩
  have hp : |a.toInt * y| < 2 ^ 31 * 2 ^ 32 := by
    rw [abs_mul]
    exact mul_lt_mul' ha hy (abs_nonneg y) (by decide)
  rw [abs_lt] at hp
  rw [highHalf_eq_ofInt_div]
  exact BitVec.toInt_ofInt_eq_self (by decide) (by omega) (by omega)

theorem toNat_highHalf_mul (a b : Word) : (highHalf (a.toNat * b.toNat)).toNat = a.toNat * b.toNat / 2 ^ 32 := by
  have hp : a.toNat * b.toNat < 2 ^ 32 * 2 ^ 32 := Nat.mul_lt_mul'' a.isLt b.isLt
  rw [highHalf_eq_ofInt_div, BitVec.toNat_ofInt, ← Nat.cast_mul]
  omega

theorem abs_toInt_lt (b : Word) : |b.toInt| < 2 ^ 32 :=
  (abs_le.mpr ⟨b.le_toInt, b.toInt_lt.le⟩).trans_lt (by decide)

theorem abs_toNat_lt (b : Word) : |(b.toNat : Int)| < 2 ^ 32 := by
  rw [Nat.abs_cast]
  exact_mod_cast b.isLt

/-- Settles O12: MUL is the product cut to 32 bits, the other three are high halves of exact products. -/
theorem multiplyResults : Obligations.MultiplyResults := by
  intro rd rs1 rs2 s a b
  refine ⟨?mul, ?mulh, ?mulhsu, ?mulhu⟩
  case mul => exact ⟨_, BitVec.toNat_ofNat _ _, runsTo_of_writeResult rfl rfl rfl⟩
  case mulh => exact ⟨_, toInt_highHalf_mul a (abs_toInt_lt b), runsTo_of_writeResult rfl rfl rfl⟩
  case mulhsu => exact ⟨_, toInt_highHalf_mul a (abs_toNat_lt b), runsTo_of_writeResult rfl rfl rfl⟩
  case mulhu => exact ⟨_, toNat_highHalf_mul a b, runsTo_of_writeResult rfl rfl rfl⟩

end Sys2Proof.Machine
end

section
/-! SUPPORT. The divide instructions (R250, R255 to R258): for a non-zero divisor their results are the library's signed and unsigned
division, the overflow included, and their remainders are the library's for every divisor. -/

namespace Sys2Proof.Machine

/-! ## Quotients and remainders as the library's -/

section
variable (a b : Word)

/-- The exact quotient, cut to 32 bits; cutting it changes it in the overflow case only. -/
theorem sdiv_eq_ofInt_tdiv : a.sdiv b = BitVec.ofInt 32 (a.toInt.tdiv b.toInt) :=
  BitVec.eq_of_toInt_eq (by rw [BitVec.toInt_sdiv, BitVec.toInt_ofInt])

theorem srem_eq_ofInt_tmod : a.srem b = BitVec.ofInt 32 (a.toInt.tmod b.toInt) := by
  rw [← BitVec.toInt_srem, BitVec.ofInt_toInt]

theorem remSigned_eq_srem : remSigned a b = a.srem b := by
  unfold remSigned
  split
  next hzero => rw [hzero, BitVec.srem_zero]
  next =>
    split
    next hoverflow => rw [hoverflow.1, hoverflow.2]; decide
    next => rw [srem_eq_ofInt_tmod, Int.tmod_def]

theorem remUnsigned_eq_umod : remUnsigned a b = a % b := by
  unfold remUnsigned
  split
  next hzero => rw [hzero, BitVec.umod_zero]
  next => rw [BitVec.umod_def]

end

section
variable {a b : Word}

theorem divSigned_of_eq_zero (hb : b = 0#32) : divSigned a b = 0xFFFFFFFF#32 := if_pos hb

theorem divUnsigned_of_eq_zero (hb : b = 0#32) : divUnsigned a b = 0xFFFFFFFF#32 := if_pos hb

theorem divSigned_of_ne_zero (hb : b ≠ 0#32) : divSigned a b = a.sdiv b := by
  rw [divSigned, if_neg hb]
  split
  next hoverflow => rw [hoverflow.1, hoverflow.2]; decide
  next => rw [sdiv_eq_ofInt_tdiv]

theorem divUnsigned_of_ne_zero (hb : b ≠ 0#32) : divUnsigned a b = a / b := by
  rw [divUnsigned, if_neg hb, BitVec.udiv_def]

theorem divSigned_of_overflow (h : a = 0x80000000#32 ∧ b = 0xFFFFFFFF#32) : divSigned a b = 0x80000000#32 := by
  rw [h.1, h.2]; rfl

theorem toInt_divSigned (hb : b ≠ 0#32) (ho : ¬(a = 0x80000000#32 ∧ b = 0xFFFFFFFF#32)) :
    (divSigned a b).toInt = a.toInt.tdiv b.toInt := by
  rw [divSigned_of_ne_zero hb]
  exact BitVec.toInt_sdiv_of_ne_or_ne a b (not_and_or.mp ho)

theorem toNat_divUnsigned (hb : b ≠ 0#32) : (divUnsigned a b).toNat = a.toNat / b.toNat := by
  rw [divUnsigned_of_ne_zero hb, BitVec.toNat_udiv]

theorem remSigned_of_eq_zero (hb : b = 0#32) : remSigned a b = a := if_pos hb

theorem remUnsigned_of_eq_zero (hb : b = 0#32) : remUnsigned a b = a := if_pos hb

theorem remSigned_of_overflow (h : a = 0x80000000#32 ∧ b = 0xFFFFFFFF#32) : remSigned a b = 0#32 := by
  rw [h.1, h.2]; rfl

end

theorem toInt_remSigned (a b : Word) : (remSigned a b).toInt = a.toInt.tmod b.toInt := by
  rw [remSigned_eq_srem, BitVec.toInt_srem]

theorem toNat_remUnsigned (a b : Word) : (remUnsigned a b).toNat = a.toNat % b.toNat := by
  rw [remUnsigned_eq_umod, BitVec.toNat_umod]

/-- Settles O13: each instruction is a `writeResult` of its quotient or remainder, whose value is known in each case of the rule. -/
theorem divideResults : Obligations.DivideResults := by
  intro rd rs1 rs2 s a b overflow
  refine ⟨?div, ?divu, ?rem, ?remu⟩
  case div =>
    exact ⟨divSigned a b, divSigned_of_eq_zero, divSigned_of_overflow, toInt_divSigned, runsTo_of_writeResult rfl rfl rfl⟩
  case divu => exact ⟨divUnsigned a b, divUnsigned_of_eq_zero, toNat_divUnsigned, runsTo_of_writeResult rfl rfl rfl⟩
  case rem =>
    have hrem : (remSigned a b).toInt = a.toInt - b.toInt * a.toInt.tdiv b.toInt := by rw [toInt_remSigned, Int.tmod_def]
    exact ⟨remSigned a b, remSigned_of_eq_zero, remSigned_of_overflow, fun _ _ => hrem, runsTo_of_writeResult rfl rfl rfl⟩
  case remu =>
    exact ⟨remUnsigned a b, remUnsigned_of_eq_zero, fun _ => toNat_remUnsigned a b, runsTo_of_writeResult rfl rfl rfl⟩

/-! ## The division equation and the remainder (R250) -/

section
variable (a b : Word)

/-- The exact equation `b * quot + rem = a`, cut to 32 bits; a zero divisor makes the quotient irrelevant. -/
theorem mul_divSigned_add_remSigned : b * divSigned a b + remSigned a b = a := by
  by_cases hb : b = 0#32
  · rw [remSigned_of_eq_zero hb, hb, BitVec.zero_mul, BitVec.zero_add]
  · calc b * divSigned a b + remSigned a b
        = BitVec.ofInt 32 b.toInt * BitVec.ofInt 32 (a.toInt.tdiv b.toInt) + BitVec.ofInt 32 (a.toInt.tmod b.toInt) := by
          rw [divSigned_of_ne_zero hb, remSigned_eq_srem, sdiv_eq_ofInt_tdiv, srem_eq_ofInt_tmod, BitVec.ofInt_toInt]
      _ = BitVec.ofInt 32 (b.toInt * a.toInt.tdiv b.toInt + a.toInt.tmod b.toInt) := by
          rw [BitVec.ofInt_add, BitVec.ofInt_mul]
      _ = a := by rw [Int.mul_tdiv_add_tmod, BitVec.ofInt_toInt]

theorem mul_divUnsigned_add_remUnsigned : b * divUnsigned a b + remUnsigned a b = a := by
  by_cases hb : b = 0#32
  · rw [remUnsigned_of_eq_zero hb, hb, BitVec.zero_mul, BitVec.zero_add]
  · apply BitVec.eq_of_toNat_eq
    rw [BitVec.toNat_add, BitVec.toNat_mul, toNat_divUnsigned hb, toNat_remUnsigned, Nat.mod_add_mod, Nat.div_add_mod,
      Nat.mod_eq_of_lt a.isLt]

variable {a b}

theorem natAbs_remSigned_lt (hb : b ≠ 0#32) : (remSigned a b).toInt.natAbs < b.toInt.natAbs := by
  rw [toInt_remSigned, Int.natAbs_tmod]
  exact Nat.mod_lt _ (Int.natAbs_pos.mpr (BitVec.toInt_ne.mpr hb))

theorem remUnsigned_lt (hb : b ≠ 0#32) : (remUnsigned a b).toNat < b.toNat := by
  rw [toNat_remUnsigned]
  exact Nat.mod_lt _ (Nat.pos_of_ne_zero (BitVec.toNat_ne.mp hb))

theorem remSigned_neg_iff (h : remSigned a b ≠ 0#32) : (remSigned a b).toInt < 0 ↔ a.toInt < 0 := by
  rw [remSigned_eq_srem] at h ⊢
  have hmsb : (a.srem b).msb = a.msb := by rw [BitVec.msb_srem, decide_eq_true (show a.srem b ≠ 0 from h), Bool.and_true]
  rwa [BitVec.msb_eq_toInt, BitVec.msb_eq_toInt, decide_eq_decide] at hmsb

end

theorem getX_of_writeResult {rd : RegIdx} {v : Word} {s t : State} (hrd : rd ≠ 0#5) (h : writeResult rd v s = .next t) :
    t.getX rd = v := by
  cases h
  exact (wroteRegister_complete rd v s).result.trans (if_neg hrd)

/-- Settles O14: the four registers hold the quotients and remainders of one dividend and divisor. -/
theorem divisionEquation : Obligations.DivisionEquation := by
  intro rd rs1 rs2 s q r qu ru hrd hdiv hrem hdivu hremu a b
  have hq : q.getX rd = divSigned a b := getX_of_writeResult hrd hdiv
  have hr : r.getX rd = remSigned a b := getX_of_writeResult hrd hrem
  have hqu : qu.getX rd = divUnsigned a b := getX_of_writeResult hrd hdivu
  have hru : ru.getX rd = remUnsigned a b := getX_of_writeResult hrd hremu
  rw [hq, hr, hqu, hru]
  exact ⟨(mul_divSigned_add_remSigned a b).symm, (mul_divUnsigned_add_remUnsigned a b).symm,
    fun hb => ⟨natAbs_remSigned_lt hb, remUnsigned_lt hb⟩, remSigned_neg_iff⟩

end Sys2Proof.Machine
end

section
/-! SUPPORT. The system, fence and CSR instructions (R270 to R286): what the environment sees and what an `ECALL` leaves of its
answer, the two status bits of `URET`, and the one CSR a CSR instruction writes. -/

namespace Sys2Proof.Machine

/-! ## What the environment sees (R273, R274) -/

section
variable {s t : State}

theorem envReference_congr (hx : t.x = s.x) : envReference t = envReference s := by
  simp only [envReference, getX_congr hx]

theorem envView_congr (hx : t.x = s.x) (hf : t.f = s.f) (hm : t.mem = s.mem) (hh : t.heapPtr = s.heapPtr) :
    envView t = envView s := by
  simp only [envView, hx, hf, hm, hh]

theorem envAnswer_of_reference (h : s.params.env = .reference) : envAnswer s = envReference s := by
  rw [envAnswer, h]

end

/-- Settles O30, by the environments: the reference and the exit read a register, the free one the view and the draw. -/
theorem environmentSeesNoMore : Obligations.EnvironmentSeesNoMore := by
  intro s t hx hf hm hh he hd
  unfold envAnswer
  rw [he]
  cases s.params.env with
  | reference => exact envReference_congr hx
  | exitArgument => exact congrArg EnvOutcome.exit (getX_congr hx 10#5)
  | always o => rfl
  | free => exact congrArg₂ Config.envAnswer hd (envView_congr hx hf hm hh)

/-- Settles O31: the two tests of the reference environment, on service numbers that differ. -/
theorem referenceEnvironment : Obligations.ReferenceEnvironment := by
  intro s hs
  rw [envAnswer_of_reference hs, envReference]
  refine ⟨fun h10 => if_pos h10, fun h93 => ?_, fun h10 h93 => ?_⟩
  · rw [if_neg (h93 ▸ by decide), if_pos h93]
  · rw [if_neg h10, if_neg h93, causeEnvironmentCall]

/-! ## The register values of a Continue (R273) -/

/-- Searched from its end, a list whose first entry is `(i, v)` ends the search with that entry. -/
theorem getD_lookup_reverse_cons {α : Type} (i k : RegIdx) (v d : α) (l : List (RegIdx × α)) :
    (((i, v) :: l).reverse.lookup k).getD d = (l.reverse.lookup k).getD (if k = i then v else d) := by
  rw [List.reverse_cons, List.lookup_append]
  cases l.reverse.lookup k with
  | some u => rfl
  | none =>
    by_cases h : k = i
    · simp [List.lookup, h]
    · simp [List.lookup, h, beq_false_of_ne h]

/-- Of several values for one register the last stays; none stays for register 0. -/
theorem getX_applyXs (l : List (RegIdx × Word)) (s : State) (k : RegIdx) :
    (applyXs l s).getX k = if k = 0#5 then 0#32 else (l.reverse.lookup k).getD (s.getX k) := by
  induction l generalizing s with
  | nil =>
    by_cases hk : k = 0#5
    · rw [hk]; rfl
    · rw [if_neg hk]; rfl
  | cons p rest ih =>
    obtain ⟨i, v⟩ := p
    refine (ih (s.setX i v)).trans (ite_congr rfl (fun _ => rfl) fun hk => ?_)
    have hset : (s.setX i v).getX k = if k = i then v else s.getX k := by
      rw [getX_setX]
      exact if_congr (and_iff_left_of_imp fun hi => hi ▸ hk) rfl rfl
    rw [hset, getD_lookup_reverse_cons]

theorem getF_applyFs (l : List (RegIdx × Dword)) (s : State) (k : RegIdx) :
    (applyFs l s).getF k = (l.reverse.lookup k).getD (s.getF k) := by
  induction l generalizing s with
  | nil => rfl
  | cons p rest ih =>
    obtain ⟨i, v⟩ := p
    rw [getD_lookup_reverse_cons, ← getF_setF]
    exact ih (s.setF i v)

/-- Applying register values changes neither memory nor the heap pointer. -/
theorem applyFs_applyXs_data (xs : List (RegIdx × Word)) (fs : List (RegIdx × Dword)) (s : State) :
    (applyFs fs (applyXs xs s)).mem = s.mem ∧ (applyFs fs (applyXs xs s)).heapPtr = s.heapPtr := by
  rw [applyFs_frame, applyXs_frame]
  exact ⟨rfl, rfl⟩

theorem getX_applyFs (l : List (RegIdx × Dword)) (s : State) (i : RegIdx) : (applyFs l s).getX i = s.getX i := by
  rw [applyFs_frame]; rfl

theorem getF_applyXs (l : List (RegIdx × Word)) (s : State) (i : RegIdx) : (applyXs l s).getF i = s.getF i := by
  rw [applyXs_frame]; rfl

/-! ## The ends of an `ECALL` (R272) -/

theorem halted_haltExit (c : Word) (s : State) : Halted .normalTermination .terminated (haltExit c s) := ⟨rfl, rfl, rfl, rfl⟩

/-- States that agree field by field in what a program can read, in the controller and in the parameters. -/
theorem sameProgramState_of_same {s t : State} (hx : t.x = s.x) (hf : t.f = s.f) (hc : t.csr = s.csr) (hm : t.mem = s.mem)
    (hh : t.heapPtr = s.heapPtr) (hk : t.ctl = s.ctl) (hp : t.params = s.params) : SameProgramState s t where
  registers := getX_congr hx
  fp := getF_congr hf
  csrs := by constructor <;> rw [hc]
  counters := by constructor <;> rw [hc]
  memory := byteAt_congr hm
  heap := hh
  controller := hk
  parameters := hp

theorem sameProgramState_haltExit (c : Word) (s : State) : SameProgramState s (haltExit c s) :=
  sameProgramState_of_same rfl rfl rfl rfl rfl rfl rfl

theorem sameProgramState_haltException (p c v : Word) (s : State) : SameProgramState s (haltException p c v s) :=
  sameProgramState_of_same rfl rfl rfl rfl rfl rfl rfl

theorem exec_ecall_of_answer {s : State} {o : EnvOutcome} (h : envAnswer s = o) : exec .ecall s = .next (applyEnv o s) := by
  rw [← h]; rfl

section
variable {xs : List (RegIdx × Word)} {fs : List (RegIdx × Dword)} {l : List EnvAccess} {s : State}

theorem applyEnv_of_accesses_done (h : (envAccesses l s).2 = none) :
    applyEnv (.continues xs fs l) s = complete (applyFs fs (applyXs xs (envAccesses l s).1)) := by
  obtain ⟨m, hm⟩ : ∃ m, envAccesses l s = (m, none) := ⟨_, Prod.ext rfl h⟩
  simp only [applyEnv, hm]

theorem applyEnv_of_access_failed {e : AccessFault} (h : (envAccesses l s).2 = some e) :
    applyEnv (.continues xs fs l) s = haltException s.pc e.cause e.value (envAccesses l s).1 := by
  obtain ⟨m, hm⟩ : ∃ m, envAccesses l s = (m, some e) := ⟨_, Prod.ext rfl h⟩
  simp only [applyEnv, hm]

end

/-- From `s` to `t` nothing changed but what the environment can reach: the register files, memory and the heap pointer (R273). -/
def SameOutsideView (s t : State) : Prop := t = { s with x := t.x, f := t.f, mem := t.mem, heapPtr := t.heapPtr }

theorem SameOutsideView.trans {s t u : State} (h : SameOutsideView s t) (k : SameOutsideView t u) : SameOutsideView s u :=
  Eq.trans k (by rw [h])

theorem sameOutsideView_envAccesses (l : List EnvAccess) (s : State) : SameOutsideView s (envAccesses l s).1 := by
  rw [envAccesses_frame]; rfl

theorem sameOutsideView_applyXs (l : List (RegIdx × Word)) (s : State) : SameOutsideView s (applyXs l s) := by
  rw [applyXs_frame]; rfl

theorem sameOutsideView_applyFs (l : List (RegIdx × Dword)) (s : State) : SameOutsideView s (applyFs l s) := by
  rw [applyFs_frame]; rfl

/-- What completing after the environment's changes leaves of the rest of the state. -/
theorem SameOutsideView.complete {s t : State} (h : SameOutsideView s t) :
    (complete t).pc = s.pc + 4#32 ∧ Counted s (complete t) ∧ SameCsrs s (complete t) ∧ (complete t).ctl = s.ctl ∧
      (complete t).run = s.run ∧ (complete t).params = s.params := by
  rw [h]
  refine ⟨rfl, ?_, ?_, rfl, rfl, rfl⟩ <;> constructor <;> rfl

theorem getX_envAccesses (l : List EnvAccess) (s : State) (i : RegIdx) : (envAccesses l s).1.getX i = s.getX i := by
  rw [envAccesses_frame]; rfl

theorem getF_envAccesses (l : List EnvAccess) (s : State) (i : RegIdx) : (envAccesses l s).1.getF i = s.getF i := by
  rw [envAccesses_frame]; rfl

/-- Settles O28, by the three outcomes; a Continue completes in the state its accesses and then its register values leave. -/
theorem ecallOutcomes : Obligations.EcallOutcomes := by
  intro s
  refine ⟨decodeEncodeRoundTrip .ecall rfl, fun code ho => ?exit, fun cause value ho => ?raise,
    fun xs fs l ho hdone => ?continues⟩
  case exit => exact ⟨_, exec_ecall_of_answer ho, halted_haltExit .., rfl, sameProgramState_haltExit ..⟩
  case raise =>
    exact ⟨_, exec_ecall_of_answer ho, halted_haltException .., faultRecord_haltException .., sameProgramState_haltException ..⟩
  case continues =>
    have hview : SameOutsideView s (applyFs fs (applyXs xs (envAccesses l s).1)) :=
      ((sameOutsideView_envAccesses l s).trans (sameOutsideView_applyXs xs _)).trans (sameOutsideView_applyFs fs _)
    obtain ⟨hpc, hcounted, hcsrs, hctl, hrun, hparams⟩ := hview.complete
    obtain ⟨hmem, hheap⟩ := applyFs_applyXs_data xs fs (envAccesses l s).1
    refine ⟨_, (exec_ecall_of_answer ho).trans (congrArg _ (applyEnv_of_accesses_done hdone)), hpc, hcounted, hcsrs, hctl, hrun,
      hparams, fun i => ?x, fun i => ?f, byteAt_congr hmem, hheap⟩
    case x => exact (getX_applyFs fs _ i).trans ((getX_applyXs xs _ i).trans (by rw [getX_envAccesses]))
    case f => exact (getF_applyFs fs _ i).trans (by rw [getF_applyXs, getF_envAccesses])

/-- Settles O29: the accesses one by one, and the state the first failing one leaves, which differs in memory and heap only. -/
theorem environmentFaultsAreTranslated : Obligations.EnvironmentFaultsAreTranslated := by
  refine ⟨fun _ => rfl, fun _ _ _ _ => rfl, fun _ _ _ _ _ => rfl, fun n l s => ⟨fun old t h => ?allocated, fun h => ?refused⟩,
    fun s xs fs l e ho hfail => ?failed⟩
  case allocated => rw [envAccesses, h]
  case refused => rw [envAccesses, h]
  case failed =>
    refine ⟨_, (exec_ecall_of_answer ho).trans (congrArg _ (applyEnv_of_access_failed hfail)), halted_haltException ..,
      faultRecord_haltException .., getX_envAccesses l s, getF_envAccesses l s, ?csrs, ?counters, ?ctl, fun _ => rfl, rfl⟩
    all_goals rw [envAccesses_frame]
    case csrs | counters => constructor <;> rfl
    case ctl => rfl

/-! ## Instructions that write nothing (R270, R271, R277) and EBREAK (R275) -/

/-- An instruction that only completes runs, from its own encoding, to the next word. -/
theorem runsTo_of_complete {i : Instr} {w : Word} {s : State} (hi : i.wellFormed = true) (hw : encode i = w)
    (he : exec i s = .next (complete s)) : RunsTo w i s (WroteNothing (s.pc + 4#32) s) :=
  ⟨hw ▸ decodeEncodeRoundTrip i hi, _, he, wroteNothing_completeAt _ s⟩

/-- Settles O27: the three instructions only complete. -/
theorem fencesAndWaitDoNothing : Obligations.FencesAndWaitDoNothing :=
  fun _ _ _ _ _ _ _ => ⟨runsTo_of_complete rfl rfl rfl, runsTo_of_complete rfl rfl rfl, runsTo_of_complete rfl rfl rfl⟩

/-- Settles O32: a halt with BREAKPOINT keeps `pc` and everything the completed instruction left. -/
theorem ebreakPauses : Obligations.EbreakPauses := by
  intro s
  have hdone : WroteNothing (s.pc + 4#32) s (complete s) := wroteNothing_completeAt _ s
  refine ⟨decodeEncodeRoundTrip .ebreak rfl, halt .breakpoint (complete s), rfl, hdone.completed.pc, ⟨rfl, rfl, rfl, rfl⟩,
    ?counted, hdone.registers, hdone.completed.fp, ?csrs, hdone.memory, hdone.completed.system.controller,
    hdone.completed.system.heap, hdone.completed.system.parameters⟩
  case counted => exact { hdone.completed.counted with }
  case csrs => exact { hdone.csrs with }

/-! ## URET (R276) -/

/-- A masked write takes the bits that are not protected (R33). -/
theorem getLsbD_maskedWrite {m : Word} {i : Nat} (hi : i < 32) (hfree : m.getLsbD i = false) (old v : Word) :
    (maskedWrite m old v).getLsbD i = v.getLsbD i := by
  rw [maskedWrite, BitVec.getLsbD_or, BitVec.getLsbD_and, BitVec.getLsbD_and, BitVec.getLsbD_not, hfree]
  simp [hi]

/-- Bits of `ustatus` set or cleared through the public path (R54). -/
def putStatusBits (b : Bool) (m : Word) (s : State) : State :=
  if b then orRegister .ustatus m s else clearRegister .ustatus m s

theorem restoreStatus_eq (s : State) :
    restoreStatus s = putStatusBits s.params.uretUpieAfter 0x10#32 (putStatusBits (s.csr.ustatus.getLsbD 4) 0x1#32 s) := rfl

section
variable (b : Bool) (m : Word) (s : State)

theorem putStatusBits_frame :
    putStatusBits b m s = { s with csr := { s.csr with ustatus := (putStatusBits b m s).csr.ustatus } } := by
  cases b <;> rfl

theorem putStatusBits_ustatus_reserved :
    (putStatusBits b m s).csr.ustatus &&& ustatusMask = s.csr.ustatus &&& ustatusMask := by
  unfold putStatusBits
  split <;> exact csrPut_ustatus_reserved .ustatus _ s

/-- A bit that is not protected takes the value where the mask selects it, and stays otherwise (R33, R54). -/
theorem getLsbD_putStatusBits {i : Nat} (hi : i < 32) (hfree : ustatusMask.getLsbD i = false) :
    (putStatusBits b m s).csr.ustatus.getLsbD i = if m.getLsbD i then b else s.csr.ustatus.getLsbD i := by
  cases b with
  | true =>
    refine (getLsbD_maskedWrite hi hfree s.csr.ustatus (s.csr.ustatus ||| m)).trans ?_
    rw [BitVec.getLsbD_or]
    cases m.getLsbD i <;> simp
  | false =>
    refine (getLsbD_maskedWrite hi hfree s.csr.ustatus (s.csr.ustatus &&& ~~~m)).trans ?_
    rw [BitVec.getLsbD_and, BitVec.getLsbD_not]
    cases m.getLsbD i <;> simp [hi]

end

theorem restoreStatus_frame (s : State) :
    restoreStatus s = { s with csr := { s.csr with ustatus := (restoreStatus s).csr.ustatus } } := by
  rw [restoreStatus_eq, putStatusBits_frame, putStatusBits_frame]

/-- Settles O33: bit 0 is put first and kept by the put of bit 4; the protected bits are kept by both. -/
theorem uretReturns : Obligations.UretReturns := by
  intro s
  refine ⟨decodeEncodeRoundTrip .uret rfl, completeAt s.csr.uepc (restoreStatus s), rfl, ?bit0, ?bit4, ?reserved, ?csrs, ?x,
    ?memory, ?completed⟩
  case bit0 =>
    show (restoreStatus s).csr.ustatus.getLsbD 0 = _
    rw [restoreStatus_eq, getLsbD_putStatusBits _ _ _ (by decide) (by decide),
      getLsbD_putStatusBits _ _ _ (by decide) (by decide)]
    rfl
  case bit4 =>
    show (restoreStatus s).csr.ustatus.getLsbD 4 = _
    rw [restoreStatus_eq, getLsbD_putStatusBits _ _ _ (by decide) (by decide)]
    rfl
  case reserved => exact (putStatusBits_ustatus_reserved ..).trans (putStatusBits_ustatus_reserved ..)
  all_goals rw [restoreStatus_frame]
  case csrs => constructor <;> rfl
  case x => exact fun _ => rfl
  case memory => exact fun _ => rfl
  case completed =>
    exact { pc := rfl, counted := by constructor <;> rfl, fp := fun _ => rfl, system := by constructor <;> rfl }

/-! ## The CSR instructions (R280 to R286) -/

section
variable {rd : RegIdx} {n : CsrNum} {new : Word → Option Word} {s : State}

theorem csrUpdate_of_some {v : Word} (h : new (csrRead n s) = some v) :
    csrUpdate rd n new s = writeResult rd (csrRead n s) (csrWrite n v s) := by
  simp only [csrUpdate, h]

theorem csrUpdate_of_none (h : new (csrRead n s) = none) : csrUpdate rd n new s = writeResult rd (csrRead n s) s := by
  simp only [csrUpdate, h]

end

/-- Completing at a state that a CSR was written in is completing at the state before, the CSR apart. -/
theorem wroteCsr_complete (rd : RegIdx) (n : CsrNum) (v : Word) (s : State) :
    WroteCsr rd n v s (complete ((csrWrite n v s).setX rd (csrRead n s))) :=
  have h := wroteRegister_complete rd (csrRead n s) (csrWrite n v s)
  { result := h.result
    registers := fun i hi => (h.registers i hi).trans (getX_csrWrite n v s i)
    csrs := h.csrs
    memory := fun a => (h.memory a).trans (byteAt_csrWrite n v s a)
    completed :=
      { pc := by simp
        counted := by constructor <;> simp
        fp := fun i => (h.completed.fp i).trans (getF_csrWrite n v s i)
        system := by constructor <;> simp } }

section
variable (i : Instr) {w : Word} {rd : RegIdx} {n : CsrNum} {s : State} (hi : i.wellFormed = true) (hw : encode i = w)
include hi hw

/-- An instruction that always writes its CSR. -/
theorem runsTo_of_csrUpdate {v : Word} (he : exec i s = csrUpdate rd n (fun _ => some v) s) :
    RunsTo w i s (WroteCsr rd n v s) :=
  ⟨hw ▸ decodeEncodeRoundTrip i hi, _, he.trans (csrUpdate_of_some rfl), wroteCsr_complete rd n v s⟩

/-- An instruction that writes its CSR unless its operand field `r` is 0. -/
theorem runsTo_of_csrUpdate_unless {r : BitVec 5} (g : Word → Word)
    (he : exec i s = csrUpdate rd n (fun t => if r ≠ 0#5 then some (g t) else none) s) :
    RunsTo w i s
      (if r = 0#5 then WroteRegister rd (csrRead n s) (s.pc + 4#32) s else WroteCsr rd n (g (csrRead n s)) s) := by
  refine ⟨hw ▸ decodeEncodeRoundTrip i hi, ?_⟩
  by_cases hr : r = 0#5
  · rw [if_pos hr]
    exact ⟨_, he.trans (csrUpdate_of_none (if_neg (not_not_intro hr))), wroteRegister_complete ..⟩
  · rw [if_neg hr]
    exact ⟨_, he.trans (csrUpdate_of_some (if_pos hr)), wroteCsr_complete ..⟩

end

/-- Settles O34: each instruction is a `csrUpdate` of the rule's value, with or without the test of its operand field. -/
theorem csrInstructionResults : Obligations.CsrInstructionResults := by
  intro rd n r s old a u
  refine ⟨?csrrw, ?csrrs, ?csrrc, ?csrrwi, ?csrrsi, ?csrrci⟩
  case csrrw => exact runsTo_of_csrUpdate (.csrrw rd n r) rfl rfl rfl
  case csrrs => exact runsTo_of_csrUpdate_unless (.csrrs rd n r) rfl rfl (· ||| a) rfl
  case csrrc => exact runsTo_of_csrUpdate_unless (.csrrc rd n r) rfl rfl (· &&& ~~~a) rfl
  case csrrwi => exact runsTo_of_csrUpdate (.csrrwi rd n r) rfl rfl rfl
  case csrrsi => exact runsTo_of_csrUpdate_unless (.csrrsi rd n r) rfl rfl (· ||| u) rfl
  case csrrci => exact runsTo_of_csrUpdate_unless (.csrrci rd n r) rfl rfl (· &&& ~~~u) rfl

end Sys2Proof.Machine
end

section
/-! SUPPORT. The step and run control (R300 to R327): the ends of a step, the step after a successful fetch, and the operations of
run control and of the host that a step takes from the agenda. -/

namespace Sys2Proof.Machine

/-- Settles O54: the loads, the stores and the CSR instructions by the shape they share, every other one by its meaning. -/
theorem everyInstructionAnswersNext : Obligations.EveryInstructionAnswersNext := exec_next

/-! ## Halts (R301, R303) -/

theorem halted_halt (r : HaltReason) (s : State) : Halted r (haltState r) (halt r s) := ⟨rfl, rfl, rfl, rfl⟩

theorem sameProgramState_halt (r : HaltReason) (s : State) : SameProgramState s (halt r s) :=
  sameProgramState_of_same rfl rfl rfl rfl rfl rfl rfl

/-! ## S1: the fetch (R305) -/

section
variable {s : State} {a : Word}

theorem fetch_of_resolve_ok {g : Segment} (h : resolve s.params s.heapPtr a .word .fetch = .ok g) :
    fetch a s = .ok (wordAt s a) := by
  rw [fetch, h]

/-- A failed fetch ends the run with its own record; the check, and with it every pending event, is not reached. -/
theorem step_halts_of_fetch_error {e : AccessFault} (h : AboutToStep s) (hf : fetch s.pc s = .error e) :
    ∃ t, step s = .next t ∧ Halted .exception .terminated t ∧ FaultRecord s.pc e.cause e.value t ∧ SameProgramState s t :=
  ⟨_, step_of_fetch_error h hf, halted_haltException .., faultRecord_haltException .., sameProgramState_haltException ..⟩

theorem step_of_fetch_ok {w : Word} (h : AboutToStep s) (hf : fetch s.pc s = .ok w) : step s = afterFetch exec w s :=
  (step_of_running h.agenda h.running).trans (runCore_of_ok h.noStop h.noPause hf)

end

/-- Settles O45: either way the fetch fails, with the cause of the failure and the address as its value. -/
theorem fetchFaultsHalt : Obligations.FetchFaultsHalt := by
  refine fun s hs => ⟨fun hmis => ?misaligned, fun hal hseg => ?outsideText⟩
  case misaligned => exact step_halts_of_fetch_error hs (fetch_of_misaligned hmis)
  case outsideText => exact step_halts_of_fetch_error hs (fetch_of_not_text hal hseg)

/-! ## S2 to S4: the check and the execution (R306 to R308) -/

section
variable {w : Word} {s s' : State}

theorem afterFetch_of_nothing (h : check s = .nothing s') :
    afterFetch exec w s = onNext (execWord exec w s') (fun t => .next (finishStep t)) := by
  simp only [afterFetch, h]

theorem afterFetch_of_event {e : TrapEvent} (h : check s = .event e s') :
    afterFetch exec w s = onNext (enterTrap e s') (fun t => .next (finishStep t)) := by
  simp only [afterFetch, h]

theorem execWord_of_instr {i : Instr} (h : decode w = .instr i) : execWord exec w s = exec i s := by
  simp only [execWord, h]

end

/-- The check's last action, from the controller and the `uip` that the claim before it leaves (R358). -/
theorem checked_refreshUip (c : Controller) (ip : Word) (s : State) :
    Checked c ip s (refreshUip { s with ctl := c, csr := { s.csr with uip := ip } }) where
  controller := rfl
  uip := by
    have hext : boolWord c.extPending <<< 8 = if c.extPending then 0x100#32 else 0#32 := by cases c.extPending <;> rfl
    have htmr : boolWord c.tmrPending <<< 4 = if c.tmrPending then 0x10#32 else 0#32 := by cases c.tmrPending <;> rfl
    rw [← hext, ← htmr]
    rfl
  rest := rfl

/-- Settles O43: the fetched word is the four bytes, and a check that finds no event only refreshes `uip`. -/
theorem stepRunsDecodedInstruction : Obligations.StepRunsDecodedInstruction := by
  intro s i g hs hn hr hd
  have hword : decode (wordAt s s.pc) = .instr i := hd
  refine ⟨refreshUip s, check_of_noEvent hn, checked_refreshUip s.ctl s.csr.uip s, ?_⟩
  rw [step_of_fetch_ok hs (fetch_of_resolve_ok hr), afterFetch_of_nothing (check_of_noEvent hn), execWord_of_instr hword]

/-- A step that a halt has ended does not reach S5 (R304). -/
theorem finishStep_of_not_running {s : State} (h : s.run.runState ≠ .running) : finishStep s = s := if_neg h

/-- Settles O44: the null word's meaning is the halt, which ends the step before S5. -/
theorem nullWordEndsTheRun : Obligations.NullWordEndsTheRun := by
  refine fun s s' hs hf => ⟨fun hc => ?halts, fun e hc => ?event⟩
  case halts =>
    have hexec : execWord exec 0x00000000#32 s' = .next (halt .cliffTermination s') := rfl
    have hend : finishStep (halt .cliffTermination s') = halt .cliffTermination s' := finishStep_of_not_running nofun
    refine ⟨halt .cliffTermination s', ?_, halted_halt .., sameProgramState_halt ..⟩
    rw [step_of_fetch_ok hs hf, afterFetch_of_nothing hc, hexec, onNext, hend]
  case event => rw [step_of_fetch_ok hs hf, afterFetch_of_event hc]

/-! ## S5: the budget and the breakpoints (R313) -/

/-- The budget is no part of the program's state. -/
theorem sameProgramState_countdown (s : State) : SameProgramState s (countdown s) :=
  sameProgramState_of_same rfl rfl rfl rfl rfl rfl rfl

/-- A halt at S5 shows the program what was there before the budget was counted. -/
theorem sameProgramState_halt_countdown (r : HaltReason) (s : State) : SameProgramState s (halt r (countdown s)) :=
  sameProgramState_of_same rfl rfl rfl rfl rfl rfl rfl

/-- Settles O47, by the three ends of a step of a RUNNING core. -/
theorem budgetAndBreakpoints : Obligations.BudgetAndBreakpoints := by
  intro s hr
  rcases finishStep_cases s with ⟨hn, -⟩ | ⟨-, hb, h⟩ | ⟨-, hb, hlast, h⟩ | ⟨-, hb, hlast, h⟩
  · exact absurd hr hn
  all_goals rw [h]
  · exact ⟨rfl, rfl, sameProgramState_halt_countdown .., fun _ => halted_halt .., fun hn => absurd hb hn,
      fun hn => absurd hb hn⟩
  · exact ⟨rfl, rfl, sameProgramState_halt_countdown .., fun hm => absurd hm hb, fun _ _ => halted_halt ..,
      fun _ hne => absurd hlast hne⟩
  · exact ⟨rfl, rfl, sameProgramState_countdown s, fun hm => absurd hm hb, fun _ he => absurd he hlast, fun _ _ => hr⟩

/-! ## The requests (R324) -/

section
variable {s : State}

theorem runCore_of_stopReq (h : s.run.stopReq = true) : runCore exec s = .next (halt .stop s) := if_pos h

theorem runCore_of_pauseReq (hs : s.run.stopReq = false) (hp : s.run.pauseReq = true) :
    runCore exec s = .next (halt .pause s) := by
  simp only [runCore, hs, hp, Bool.false_eq_true, if_false, if_true]

/-- A request is made and accepted while the core is RUNNING, and rejected otherwise. -/
theorem step_of_request {op : PortOp} {rest : List PortOp} (g : State → State) (ha : s.agenda = op :: rest)
    (hg : applyPort exec op { s with agenda := rest } =
      answered (if isRunning s then (true, g { s with agenda := rest }) else (false, { s with agenda := rest }))) :
    ∃ t, step s = .next t ∧
      (s.run.runState = .running → t = { g { s with agenda := rest } with answer := .accepted }) ∧
      (s.run.runState ≠ .running → t = { s with agenda := rest, answer := .rejected }) := by
  rw [step_of_port ha, hg]
  by_cases hr : s.run.runState = .running
  · rw [if_pos ((isRunning_iff s).2 hr)]
    exact ⟨_, answered_eq _, fun _ => rfl, fun hn => absurd hr hn⟩
  · rw [if_neg (mt (isRunning_iff s).1 hr)]
    exact ⟨_, answered_eq _, fun hn => absurd hn hr, fun _ => rfl⟩

end

/-- Settles O46: a request is set by the operation, and the step's first two tests are on the requests, STOP first. -/
theorem pauseAndStopAtStepTop : Obligations.PauseAndStopAtStepTop := by
  refine ⟨fun s rest ha => ?pause, fun s rest ha => ?stop, fun s ha hr hs => ?stops, fun s ha hr hs hp => ?pauses⟩
  case pause => exact step_of_request (fun t => { t with run := { t.run with pauseReq := true } }) ha rfl
  case stop => exact step_of_request (fun t => { t with run := { t.run with stopReq := true } }) ha rfl
  case stops =>
    exact ⟨_, (step_of_running ha hr).trans (runCore_of_stopReq hs), halted_halt .., rfl, sameProgramState_halt ..⟩
  case pauses =>
    exact ⟨_, (step_of_running ha hr).trans (runCore_of_pauseReq hs hp), halted_halt .., rfl, sameProgramState_halt ..⟩

/-! ## Starting (R320 to R322) -/

theorem startRun_of_not_idle {s : State} (h : ¬(s.run.runState = .stopped ∨ s.run.runState = .paused)) (n : Int)
    (l : List Word) : startRun n l s = (false, s) := if_neg h

/-- Leaving out the repeats keeps the members. -/
theorem mem_foldr_insert (l : List Word) (a : Word) : a ∈ l.foldr List.insert [] ↔ a ∈ l := by
  induction l with
  | nil => rfl
  | cons b l ih => rw [List.foldr_cons, List.mem_insert_iff, ih, List.mem_cons]

/-- Settles O48: `step()` is `start(1, [])`, and a start is accepted exactly in the two run states. -/
theorem startCommand : Obligations.StartCommand := by
  intro s n bps rest h
  have hstep : step s = answered (startRun n bps { s with agenda := rest }) := by
    rcases h with ha | ⟨ha, rfl, rfl⟩ <;> exact step_of_port ha
  by_cases hidle : s.run.runState = .stopped ∨ s.run.runState = .paused
  · refine ⟨_, hstep.trans (congrArg answered (startRun_of_idle (s := { s with agenda := rest }) hidle n bps)), rfl,
      sameProgramState_of_same rfl rfl rfl rfl rfl rfl rfl, rfl, fun _ => ⟨rfl, rfl, rfl, mem_foldr_insert bps, rfl, rfl⟩,
      fun hother => ?_⟩
    rcases hidle with hq | hq <;> simp [hq] at hother
  · exact ⟨_, hstep.trans (congrArg answered (startRun_of_not_idle (s := { s with agenda := rest }) hidle n bps)), rfl,
      sameProgramState_of_same rfl rfl rfl rfl rfl rfl rfl, rfl, fun hq => absurd hq hidle, fun _ => ⟨rfl, rfl⟩⟩

/-! ## Queries and edits of the host (R327) -/

/-- No query reads the agenda. -/
theorem queryValue_withAgenda (q : Query) (s : State) (l : List PortOp) :
    queryValue q { s with agenda := l } = queryValue q s := by
  cases q <;> rfl

section
variable {a : Word} {w : Width} {s : State}

theorem queryValue_mem_of_ok {v : Dword} (h : memRead a w s = .ok v) : queryValue (.mem a w) s = .double v := by
  simp only [queryValue, h]

theorem queryValue_mem_of_error {e : AccessFault} (h : memRead a w s = .error e) : queryValue (.mem a w) s = .rejected := by
  simp only [queryValue, h]

variable {v : Dword}

theorem editMemory_of_running (h : s.run.runState = .running) : editMemory a w v s = (false, s) :=
  if_pos ((isRunning_iff s).2 h)

theorem editMemory_of_ok {t : State} (h : s.run.runState ≠ .running) (hw : memWrite a w v s = .ok t) :
    editMemory a w v s = (true, t) := by
  simp only [editMemory, if_neg (mt (isRunning_iff s).1 h), hw]

theorem editMemory_of_error {e : AccessFault} (h : s.run.runState ≠ .running) (hw : memWrite a w v s = .error e) :
    editMemory a w v s = (false, s) := by
  simp only [editMemory, if_neg (mt (isRunning_iff s).1 h), hw]

end

section
variable {s : State} {op : PortOp} {rest : List PortOp} (ha : s.agenda = op :: rest)
include ha

theorem step_of_query_running {q : Query} (hop : op = .query q) (hr : s.run.runState = .running) :
    step s = .next { s with agenda := rest, answer := .rejected } := by
  subst hop
  rw [step_of_port ha, applyPort, hostQuery_of_running (s := { s with agenda := rest }) hr, replied_eq]

theorem step_of_query_idle {q : Query} {v : Answer} (hv : queryValue q s = v) (hop : op = .query q)
    (hr : s.run.runState ≠ .running) : step s = .next { s with agenda := rest, answer := v } := by
  subst hop
  rw [step_of_port ha, applyPort, hostQuery_of_idle (s := { s with agenda := rest }) hr, queryValue_withAgenda, hv, replied_eq]

/-- An edit is made and accepted while the core is not RUNNING, and rejected otherwise. -/
theorem step_of_edit {g : State → State}
    (hg : applyPort exec op { s with agenda := rest } = answered (edit g { s with agenda := rest })) :
    (s.run.runState ≠ .running → step s = .next { g { s with agenda := rest } with answer := .accepted }) ∧
    (¬s.run.runState ≠ .running → step s = .next { s with agenda := rest, answer := .rejected }) := by
  rw [step_of_port ha, hg]
  rcases edit_cases g { s with agenda := rest } with ⟨hr, he⟩ | ⟨hr, he⟩ <;> rw [he, answered_eq]
  · exact ⟨fun hn => absurd hr hn, fun _ => rfl⟩
  · exact ⟨fun _ => rfl, fun hn => absurd hr hn⟩

theorem step_of_editMem {b : Bool} {a : Word} {w : Width} {v : Dword} {t : State} (hop : op = .editMem a w v)
    (he : editMemory a w v { s with agenda := rest } = (b, t)) : step s = .next { t with answer := verdict b } := by
  subst hop
  rw [step_of_port ha, applyPort, he, answered_eq]

end

/-- Settles O53: the queries by the value each reads, the edits of registers, `pc` and CSRs by the change each makes, and the edit
of memory by the outcomes of its write. -/
theorem hostEdits : Obligations.HostEdits := by
  intro s op rest ha
  refine ⟨fun q hop hr => step_of_query_running ha hop (not_not.mp hr), fun i => step_of_query_idle ha rfl,
    fun i => step_of_query_idle ha rfl, step_of_query_idle ha rfl, fun n => step_of_query_idle ha rfl,
    fun a w hop hr => ⟨fun v hv => step_of_query_idle ha (queryValue_mem_of_ok hv) hop hr,
      fun e he => step_of_query_idle ha (queryValue_mem_of_error he) hop hr⟩,
    step_of_query_idle ha rfl, step_of_query_idle ha rfl, step_of_query_idle ha rfl, step_of_query_idle ha rfl,
    step_of_query_idle ha rfl, step_of_query_idle ha rfl, fun i v hop => ?editX, fun i v hop => ?editF, fun v hop => ?editPc,
    fun n v hop => ?editCsr, fun a w v hop => ⟨fun hr t hw => ?stored, fun hr e hw => ?denied, fun hr => ?memRunning⟩⟩
  case editX => subst hop; exact step_of_edit ha rfl
  case editF => subst hop; exact step_of_edit ha rfl
  case editPc => subst hop; exact step_of_edit ha rfl
  case editCsr => subst hop; exact step_of_edit ha rfl
  case stored => exact step_of_editMem ha hop (editMemory_of_ok hr hw)
  case denied => exact step_of_editMem ha hop (editMemory_of_error hr hw)
  case memRunning => exact step_of_editMem ha hop (editMemory_of_running (not_not.mp hr))

end Sys2Proof.Machine
end

section
/-! SUPPORT. The assertion of `claimTrap` (R352, R412): the core registers a trap only as it advances past the instruction, takes
it in its next step, and halts with INVARIANT_VIOLATION only where the assertion fails; of the ports only an edit of `pc` moves
`pc` under a pending trap. -/

namespace Sys2Proof.Machine

/-- A pending trap is the one of the instruction before `pc`, and the run has not ended with a failed assertion. -/
structure TrapSound (s : State) : Prop where
  trap : TrapInv s
  noViolation : s.run.runState = .terminated → s.run.haltReason ≠ .invariantViolation

/-! ## What an operation of a step does to the controller -/

/-- From `s` to `t` the controller is the same, and the run goes on as it was or has halted for another reason than a failed
assertion. -/
structure TrapFrame (s t : State) : Prop where
  controller : t.ctl = s.ctl
  ends : t.run = s.run ∨ t.run.haltReason ≠ .invariantViolation

theorem TrapFrame.trans {s t u : State} (h : TrapFrame s t) (k : TrapFrame t u) : TrapFrame s u where
  controller := k.controller.trans h.controller
  ends := by
    rcases k.ends with hr | hr
    · rw [hr]; exact h.ends
    · exact .inr hr

/-- A change that reaches neither the controller nor the run. -/
theorem trapFrame_of_same {s t : State} (hc : t.ctl = s.ctl) (hr : t.run = s.run) : TrapFrame s t := ⟨hc, .inl hr⟩

theorem trapFrame_halt {r : HaltReason} (h : r ≠ .invariantViolation) (s : State) : TrapFrame s (halt r s) := ⟨rfl, .inr h⟩

theorem trapFrame_haltException (p c v : Word) (s : State) : TrapFrame s (haltException p c v s) := ⟨rfl, .inr nofun⟩

theorem trapFrame_haltExit (c : Word) (s : State) : TrapFrame s (haltExit c s) := ⟨rfl, .inr nofun⟩

theorem SameOutsideView.trapFrame {s t : State} (h : SameOutsideView s t) : TrapFrame s t := by
  rw [h]; exact trapFrame_of_same rfl rfl

theorem trapFrame_applyEnv (o : EnvOutcome) (s : State) : TrapFrame s (applyEnv o s) := by
  rcases applyEnv_cases o s with ⟨xs, fs, l, -, -, h⟩ | ⟨xs, fs, l, e, -, -, h⟩ | ⟨code, -, h⟩ | ⟨cause, value, -, h⟩ <;>
    rw [h]
  · obtain ⟨-, -, -, hctl, hrun, -⟩ := (((sameOutsideView_envAccesses l s).trans (sameOutsideView_applyXs xs _)).trans
      (sameOutsideView_applyFs fs _)).complete
    exact trapFrame_of_same hctl hrun
  · exact (sameOutsideView_envAccesses l s).trapFrame.trans (trapFrame_haltException ..)
  · exact trapFrame_haltExit ..
  · exact trapFrame_haltException ..

/-- An instruction either leaves the controller alone or raises (R350). -/
theorem InstrEffect.trapFrame_or_raise {s t : State} (h : InstrEffect s t) : TrapFrame s t ∨ ∃ c v, t = raise c v s := by
  cases h with
  | wrote | jumped | wroteCsr => exact .inl (trapFrame_of_same (by simp) (by simp))
  | stored ea w v m hm =>
    obtain ⟨-, rfl⟩ := memWrite_ok hm
    exact .inl (trapFrame_of_same rfl rfl)
  | raised e => exact .inr ⟨e.cause, e.value, rfl⟩
  | environment o => exact .inl (trapFrame_applyEnv o s)
  | paused => exact .inl ⟨rfl, .inr nofun⟩
  | returned => rw [restoreStatus_frame]; exact .inl (trapFrame_of_same rfl rfl)

theorem trapFrame_or_raise_of_execWord {w : Word} {s t : State} (h : execWord exec w s = .next t) :
    TrapFrame s t ∨ ∃ c v, t = raise c v s := by
  rcases execWord_next h with ⟨-, rfl⟩ | ⟨-, rfl⟩ | ⟨i, -, hi⟩
  · exact .inl (trapFrame_halt (by decide) s)
  · exact .inr ⟨_, _, rfl⟩
  · exact (exec_effect hi).trapFrame_or_raise

theorem trapFrame_enterTrap {e : TrapEvent} {s t : State} (h : enterTrap e s = .next t) : TrapFrame s t := by
  rcases enterTrap_cases e s with ⟨-, -, hr⟩ | ⟨-, -, hn⟩ | ⟨-, -, hn⟩
  · rw [hr] at h; cases h
  · rw [hn] at h; cases h; exact trapFrame_of_same rfl rfl
  · rw [hn] at h; cases h; exact ⟨rfl, .inr nofun⟩

/-! ## The core's step -/

section
variable {s t : State}

/-- A RUNNING core halts soundly, whatever the reason but the failed assertion: a halt that does not end the run keeps `pc`. -/
theorem trapSound_halt (hr : s.run.runState = .running) (h : TrapInv s) {r : HaltReason} (hv : r ≠ .invariantViolation) :
    TrapSound (halt r s) where
  trap hn hp := by
    rw [halt_pc r s hn]
    exact h (by rw [hr]; nofun) hp
  noViolation _ := hv

/-- With no trap pending a RUNNING core is sound after anything but a raise. -/
theorem TrapFrame.trapSound (h : TrapFrame s t) (hr : s.run.runState = .running) (hp : s.ctl.trapPending = false) :
    TrapSound t where
  trap _ ht := by rw [h.controller, hp] at ht; cases ht
  noViolation hn := h.ends.resolve_left fun he => by rw [he, hr] at hn; cases hn

/-- A raise registers the trap of the instruction it advances past (R350). -/
theorem trapSound_raise (hr : s.run.runState = .running) (hp : s.ctl.trapPending = false) (c v : Word) :
    TrapSound (raise c v s) := by
  have h := raised_raise hp c v
  constructor
  · intro _ _
    rw [h.trapPc, h.pc, BitVec.add_sub_cancel]
  · rw [h.runControl, hr]; nofun

/-- S5 leaves `pc` where it is, and its halts pause (R313). -/
theorem TrapSound.finishStep (h : TrapSound s) : TrapSound (finishStep s) := by
  rcases finishStep_cases s with ⟨-, hf⟩ | ⟨hr, -, hf⟩ | ⟨hr, -, -, hf⟩ | ⟨-, -, -, hf⟩ <;> rw [hf]
  · exact h
  · exact trapSound_halt (s := countdown s) hr h.trap nofun
  · exact trapSound_halt (s := countdown s) hr h.trap nofun
  · exact ⟨h.trap, h.noViolation⟩

/-- A RUNNING core's step: the assertion holds where the check comes to it, and only a raise registers a trap. -/
theorem trapSound_runCore (hr : s.run.runState = .running) (h : TrapInv s) (hc : runCore exec s = .next t) : TrapSound t := by
  rcases runCore_next hc with ⟨-, rfl⟩ | ⟨-, -, rfl⟩ | ⟨-, -, ⟨e, -, rfl⟩ | ⟨w, -, ⟨s', hv, -⟩ |
    ⟨e, s', u, he, hu, rfl⟩ | ⟨s', u, hn, hu, rfl⟩⟩⟩
  · exact trapSound_halt hr h nofun
  · exact trapSound_halt hr h nofun
  · exact ⟨fun hn => absurd rfl hn, nofun⟩
  · obtain ⟨hp, hne, -⟩ := check_violation hv
    exact absurd (h (by rw [hr]; nofun) hp) hne
  · obtain ⟨hp, hs, -⟩ := check_event he
    have hr' : s'.run.runState = .running := by rw [hs]; exact hr
    exact ((trapFrame_enterTrap hu).trapSound hr' hp).finishStep
  · obtain ⟨hp, rfl⟩ := check_nothing hn
    rcases trapFrame_or_raise_of_execWord hu with hf | ⟨c, v, rfl⟩
    · exact (hf.trapSound hr hp).finishStep
    · exact (trapSound_raise (s := refreshUip s) hr hp c v).finishStep

theorem agenda_runCore (hc : runCore exec s = .next t) : t.agenda = s.agenda := by
  obtain ⟨n, -, hf⟩ := coreFrameOnce_runCore hc
  exact hf.agenda

/-! ## The ports -/

/-- A core that a reset has left has no trap pending (R359, R400). -/
theorem trapPending_hostReset (s : State) : (hostReset s).ctl.trapPending = false := by
  obtain ⟨-, -, -, -, -, -, -, -, hctl, -⟩ := hostReset_fields s
  rw [hctl]; rfl

/-- No port operation but an edit of `pc` moves `pc` under a pending trap: a reset, and with it `load`, drops the trap. -/
theorem TrapInv.portChange {op : PortOp} (h : TrapInv s) (hop : ∀ v, op = .editPc v → s.ctl.trapPending = false)
    (hp : PortChange s op t) : TrapInv t := by
  have dropped {u : State} (hu : u.ctl.trapPending = false) : TrapInv u := fun _ ht => absurd (hu.symm.trans ht) nofun
  cases hp with
  | nothing | external | timer | setF => exact h
  | started _ n l hr =>
    rw [startRun_of_idle hr]
    exact fun _ => h (by rcases hr with hr | hr <;> rw [hr] <;> nofun)
  | requested => exact h
  | reset | loaded | configured => exact dropped (trapPending_hostReset _)
  | setX i v => simpa [TrapInv] using h
  | setPc v => exact dropped (hop v rfl)
  | setCsr n v => simpa [TrapInv] using h
  | setMem a w v m _ hm =>
    obtain ⟨-, rfl⟩ := memWrite_ok hm
    exact h

/-- No port operation ends a run: a core TERMINATED after it was so before, for the same reason. -/
theorem PortChange.run_of_terminated {op : PortOp} (hp : PortChange s op t) (ht : t.run.runState = .terminated) :
    t.run = s.run := by
  have stopped {u : State} : (hostReset u).run.runState ≠ .terminated := by
    rw [(atReset_hostReset u).stopped]; nofun
  cases hp with
  | nothing | external | timer | setF | setPc => rfl
  | started _ n l hr => rw [startRun_of_idle hr] at ht; cases ht
  | requested _ p q hr => exact absurd (hr.symm.trans ht) nofun
  | reset | loaded | configured => exact absurd ht stopped
  | setX i v => exact setX_run s i v
  | setCsr n v => exact csrWrite_run n v s
  | setMem a w v m _ hm =>
    obtain ⟨-, rfl⟩ := memWrite_ok hm
    rfl

end

/-! ## The machine's step -/

/-- Settles O58, by the kinds of step: the core's turn, an idle core, an operation of the agenda. -/
theorem trapAssertionHoldsInEveryRun : Obligations.TrapAssertionHoldsInEveryRun := by
  intro s t hedit h hs
  rcases step_next hs with ⟨ha, hr, hc⟩ | ⟨ha, -, rfl⟩ | ⟨op, rest, ha, hp⟩
  · have hsound := trapSound_runCore hr h hc
    exact ⟨hsound.trap, by rw [agenda_runCore hc, ha, List.tail_nil], fun ht hv => absurd hv (hsound.noViolation ht)⟩
  · exact ⟨h, by rw [ha, List.tail_nil], fun ht hv => ⟨ht, hv⟩⟩
  have h' : TrapInv { s with agenda := rest } := h
  rw [ha, List.tail_cons]
  rcases applyPort_cases op { s with agenda := rest } with ⟨-, hr, he⟩ | ⟨-, -, he⟩ | ⟨im, en, -, -, -, he⟩ |
    ⟨c, -, -, -, he⟩ | ⟨-, a, u, hu, he⟩ <;> rw [he] at hp
  · have hsound := trapSound_runCore hr h' hp
    exact ⟨hsound.trap, agenda_runCore hp, fun ht hv => absurd hv (hsound.noViolation ht)⟩
  · cases hp
    exact ⟨h, rfl, fun ht hv => ⟨ht, hv⟩⟩
  · cases hp
  · cases hp
  · cases hp
    have htrap : TrapInv u := h'.portChange (fun v hop => hedit v rest (hop ▸ ha)) hu
    refine ⟨htrap, hu.agenda, fun ht hv => ?_⟩
    have hrun : u.run = s.run := hu.run_of_terminated ht
    exact hrun ▸ ⟨ht, hv⟩

end Sys2Proof.Machine
end

section
/-! SUPPORT. The operations of exceptions and interrupts (R344 to R363): raising, the registrations and their claims, the check case
by case, and trap entry. -/

namespace Sys2Proof.Machine

/-! ## Raising (R350) -/

/-- Settles O37: with a trap pending the registration is rejected, and the raise is the halt with its record. -/
theorem raiseRegistersOrHalts : Obligations.RaiseRegistersOrHalts := by
  refine fun c v s => ⟨fun hp => raised_raise hp c v, fun hp => ?_⟩
  rw [raise_of_pending hp]
  exact ⟨halted_haltException .., faultRecord_haltException .., sameProgramState_haltException ..⟩

/-! ## Registrations and claims (R345 to R351) -/

section
variable {s : State}

theorem registerExternal_of_clear (h : s.ctl.extPending = false) (v : Word) :
    registerExternal v s = (true, { s with ctl := { s.ctl with extPending := true, extValue := v } }) :=
  if_neg (by rw [h]; nofun)

theorem registerExternal_of_pending (h : s.ctl.extPending = true) (v : Word) : registerExternal v s = (false, s) := if_pos h

theorem claimExternal_of_clear (h : s.ctl.extPending = false) : claimExternal s = none := if_neg (by rw [h]; nofun)

theorem claimExternal_of_pending (h : s.ctl.extPending = true) :
    claimExternal s = some (s.ctl.extValue, { s with ctl := { s.ctl with extPending := false } }) := if_pos h

theorem registerTimer_of_clear (h : s.ctl.tmrPending = false) (v : Word) :
    registerTimer v s = (true, { s with ctl := { s.ctl with tmrPending := true, tmrValue := v } }) :=
  if_neg (by rw [h]; nofun)

theorem registerTimer_of_pending (h : s.ctl.tmrPending = true) (v : Word) : registerTimer v s = (false, s) := if_pos h

theorem claimTimer_of_clear (h : s.ctl.tmrPending = false) : claimTimer s = none := if_neg (by rw [h]; nofun)

theorem claimTimer_of_pending (h : s.ctl.tmrPending = true) :
    claimTimer s = some (s.ctl.tmrValue, { s with ctl := { s.ctl with tmrPending := false } }) := if_pos h

/-- A step that takes a port operation records the operation's verdict in the state it leaves. -/
theorem step_of_answered {op : PortOp} {rest : List PortOp} {b : Bool} {t : State} (ha : s.agenda = op :: rest)
    (h : applyPort exec op { s with agenda := rest } = answered (b, t)) : step s = .next { t with answer := verdict b } := by
  rw [step_of_port ha, h, answered_eq]

end

/-- Settles O38: each registration and each claim of the sequence by the flag it finds. -/
theorem registrationIsClaimOnce : Obligations.RegistrationIsClaimOnce := by
  intro x y z s ext tmr
  refine ⟨fun h => ?extSequence, fun h => ?tmrSequence, fun h => ?extPending, fun h => ?tmrPending,
    fun rest ha => ⟨fun h => ?extAccepted, fun h => ?extRejected⟩, fun rest ha => ⟨fun h => ?tmrAccepted, fun h => ?tmrRejected⟩⟩
  case extSequence =>
    exact ⟨registerExternal_of_clear h x, registerExternal_of_pending rfl y, claimExternal_of_pending rfl,
      registerExternal_of_clear rfl z, claimExternal_of_clear h⟩
  case tmrSequence =>
    exact ⟨registerTimer_of_clear h x, registerTimer_of_pending rfl y, claimTimer_of_pending rfl,
      registerTimer_of_clear rfl z, claimTimer_of_clear h⟩
  case extPending => exact ⟨registerExternal_of_pending h x, claimExternal_of_pending h⟩
  case tmrPending => exact ⟨registerTimer_of_pending h x, claimTimer_of_pending h⟩
  case extAccepted =>
    exact step_of_answered ha (congrArg answered (registerExternal_of_clear (s := { s with agenda := rest }) h x))
  case extRejected =>
    exact step_of_answered ha (congrArg answered (registerExternal_of_pending (s := { s with agenda := rest }) h x))
  case tmrAccepted =>
    exact step_of_answered ha (congrArg answered (registerTimer_of_clear (s := { s with agenda := rest }) h x))
  case tmrRejected =>
    exact step_of_answered ha (congrArg answered (registerTimer_of_pending (s := { s with agenda := rest }) h x))

/-! ## The check case by case (R354, R355) -/

/-- An external interrupt qualifies (R354). -/
def ExternalQualifies (s : State) : Prop :=
  s.csr.ustatus.getLsbD 0 = true ∧ s.ctl.extPending = true ∧ s.csr.uie.getLsbD 8 = true

/-- A software interrupt qualifies (R354). -/
def SoftwareQualifies (s : State) : Prop :=
  s.csr.ustatus.getLsbD 0 = true ∧ s.csr.uip.getLsbD 0 = true ∧ s.csr.uie.getLsbD 0 = true

/-- A timer interrupt qualifies (R354). -/
def TimerQualifies (s : State) : Prop :=
  s.csr.ustatus.getLsbD 0 = true ∧ s.ctl.tmrPending = true ∧ s.csr.uie.getLsbD 4 = true

section
variable {s : State}

theorem externalQualifies_iff :
    (ustatusUie (csrGet .ustatus s) && s.ctl.extPending && (csrGet .uie s).getLsbD 8) = true ↔ ExternalQualifies s := by
  rw [Bool.and_eq_true, Bool.and_eq_true, and_assoc]; rfl

theorem softwareQualifies_iff :
    (ustatusUie (csrGet .ustatus s) && (csrGet .uip s).getLsbD 0 && (csrGet .uie s).getLsbD 0) = true ↔ SoftwareQualifies s := by
  rw [Bool.and_eq_true, Bool.and_eq_true, and_assoc]; rfl

theorem timerQualifies_iff :
    (ustatusUie (csrGet .ustatus s) && s.ctl.tmrPending && (csrGet .uie s).getLsbD 4) = true ↔ TimerQualifies s := by
  rw [Bool.and_eq_true, Bool.and_eq_true, and_assoc]; rfl

theorem noEvent_iff :
    NoEvent s ↔ s.ctl.trapPending = false ∧ ¬ExternalQualifies s ∧ ¬SoftwareQualifies s ∧ ¬TimerQualifies s := by
  unfold NoEvent ExternalQualifies SoftwareQualifies TimerQualifies
  tauto

theorem check_of_trap (hp : s.ctl.trapPending = true) (hc : s.ctl.trapPc = s.pc - 4#32) :
    check s = .event ⟨false, s.ctl.trapCause, s.ctl.trapValue, s.ctl.trapPc⟩
      (refreshUip { s with ctl := { s.ctl with trapPending := false } }) := by
  rw [check, if_pos hp, claimTrap, if_pos ⟨hp, hc⟩]

theorem check_of_stale_trap (hp : s.ctl.trapPending = true) (hc : s.ctl.trapPc ≠ s.pc - 4#32) :
    check s = .violation (halt .invariantViolation s) := by
  rw [check, if_pos hp, claimTrap, if_neg fun h => hc h.2, assertFailed]

variable (hp : s.ctl.trapPending = false)
include hp

theorem check_of_external (hx : ExternalQualifies s) :
    check s = .event ⟨true, causeExternalInterrupt, s.ctl.extValue, s.pc⟩
      (refreshUip { s with ctl := { s.ctl with extPending := false } }) := by
  rw [check, if_neg (by rw [hp]; nofun), if_pos (externalQualifies_iff.2 hx), claimExternal_of_pending hx.2.1]

theorem check_of_software (hx : ¬ExternalQualifies s) (hs : SoftwareQualifies s) :
    check s = .event ⟨true, causeSoftwareInterrupt, 0#32, s.pc⟩ (refreshUip (clearRegister .uip 0x1#32 s)) := by
  rw [check, if_neg (by rw [hp]; nofun), if_neg (mt externalQualifies_iff.1 hx), if_pos (softwareQualifies_iff.2 hs)]

theorem check_of_timer (hx : ¬ExternalQualifies s) (hs : ¬SoftwareQualifies s) (ht : TimerQualifies s) :
    check s = .event ⟨true, causeTimerInterrupt, s.ctl.tmrValue, s.pc⟩
      (refreshUip { s with ctl := { s.ctl with tmrPending := false } }) := by
  rw [check, if_neg (by rw [hp]; nofun), if_neg (mt externalQualifies_iff.1 hx), if_neg (mt softwareQualifies_iff.1 hs),
    if_pos (timerQualifies_iff.2 ht), claimTimer_of_pending ht.2.1]

end

/-- Settles O39, by the cases of the check in their order; each event's claim is what the mirror bits are rewritten from. -/
theorem checkSelectsByPriority : Obligations.CheckSelectsByPriority := by
  intro s
  refine ⟨fun hp hc => ?trap, fun hp hc => ?stale, fun hp hx => ?external, fun hp hx hs => ?software,
    fun hp hx hs ht => ?timer, fun hp hx hs ht => ?nothing⟩
  case trap => exact ⟨_, check_of_trap hp hc, checked_refreshUip _ s.csr.uip s⟩
  case stale => exact ⟨_, check_of_stale_trap hp hc, halted_halt .., sameProgramState_halt ..⟩
  case external => exact ⟨_, check_of_external hp hx, checked_refreshUip _ s.csr.uip s⟩
  case software => exact ⟨_, check_of_software hp hx hs, checked_refreshUip s.ctl (s.csr.uip &&& 0xFFFFFFFE#32) s⟩
  case timer => exact ⟨_, check_of_timer hp hx hs ht, checked_refreshUip _ s.csr.uip s⟩
  case nothing => exact ⟨_, check_of_noEvent (noEvent_iff.2 ⟨hp, hx, hs, ht⟩), checked_refreshUip s.ctl s.csr.uip s⟩

/-! ## Trap entry (R360 to R363) -/

/-- Setting bits of `ustatus` none of which is protected (R33, R54). -/
theorem orRegister_ustatus {m : Word} (hm : m &&& ustatusMask = 0#32) (s : State) :
    orRegister .ustatus m s = { s with csr := { s.csr with ustatus := s.csr.ustatus ||| m } } := by
  have hkept : (s.csr.ustatus ||| m) &&& ustatusMask = s.csr.ustatus &&& ustatusMask := by
    rw [BitVec.and_or_distrib_right, hm, BitVec.or_zero]
  rw [orRegister, csrPut, csrGet, maskedWrite_of_and_mask_eq hkept]

/-- Clearing bits of `ustatus` none of which is protected (R33, R54). -/
theorem clearRegister_ustatus {m : Word} (hm : ~~~m &&& ustatusMask = ustatusMask) (s : State) :
    clearRegister .ustatus m s = { s with csr := { s.csr with ustatus := s.csr.ustatus &&& ~~~m } } := by
  have hkept : s.csr.ustatus &&& ~~~m &&& ustatusMask = s.csr.ustatus &&& ustatusMask := by rw [BitVec.and_assoc, hm]
  rw [clearRegister, csrPut, csrGet, maskedWrite_of_and_mask_eq hkept]

/-- The status at the handler: UPIE set, UIE clear (R360). -/
theorem clear_uie_set_upie (s : State) :
    clearRegister .ustatus 0x1#32 (orRegister .ustatus 0x10#32 s) =
      { s with csr := { s.csr with ustatus := (s.csr.ustatus &&& 0xFFFFFFFE#32) ||| 0x10#32 } } := by
  have hu : (s.csr.ustatus ||| 0x10#32) &&& ~~~0x1#32 = (s.csr.ustatus &&& 0xFFFFFFFE#32) ||| 0x10#32 :=
    BitVec.and_or_distrib_right
  rw [orRegister_ustatus (by decide), clearRegister_ustatus (by decide), hu]

theorem handlerPresent_iff (s : State) : handlerPresent s = true ↔ HandlerPresent s := by
  rw [handlerPresent, Bool.and_eq_true]
  refine and_congr Iff.rfl ?_
  change _ ↔ (∃ seg, resolve s.params s.heapPtr (handlerBase s) .word .fetch = .ok seg) ∧ wordAt s (handlerBase s) ≠ 0x00000000#32
  unfold fetch
  cases resolve s.params s.heapPtr (handlerBase s) .word .fetch with
  | ok seg => simp
  | error e => simp

theorem entered_handler (e : TrapEvent) (s : State) :
    Entered e s ((clearRegister .ustatus 0x1#32 (orRegister .ustatus 0x10#32 (saveTrap e s))).setPc (handlerBase s)) := by
  rw [clear_uie_set_upie]
  constructor <;> rfl

theorem unhandled_haltException (e : TrapEvent) (s : State) :
    Unhandled e s (haltException e.epc e.cause e.value (saveTrap e s)) where
  cause := rfl
  epc := rfl
  value := rfl
  csrs := rfl
  halted := halted_haltException ..
  record := faultRecord_haltException ..
  registers _ := rfl
  fp _ := rfl
  memory _ := rfl
  heap := rfl
  controller := rfl

/-- Settles O40, by the three outcomes of trap entry. -/
theorem trapEntry : Obligations.TrapEntry := by
  intro e s
  rcases enterTrap_cases e s with ⟨hi, hv, h⟩ | ⟨hn, hh, h⟩ | ⟨hn, hh, h⟩
  · exact ⟨fun _ _ => h, fun hn => absurd ⟨hi, hv⟩ hn, fun hn => absurd ⟨hi, hv⟩ hn⟩
  · have hpresent := (handlerPresent_iff s).1 hh
    exact ⟨fun hi hv => absurd ⟨hi, hv⟩ hn, fun _ _ => ⟨_, h, entered_handler e s⟩, fun _ ha => absurd hpresent ha⟩
  · have habsent : ¬HandlerPresent s := fun hp => by rw [(handlerPresent_iff s).2 hp] at hh; cases hh
    exact ⟨fun hi hv => absurd ⟨hi, hv⟩ hn, fun _ hp => absurd hp habsent, fun _ _ => ⟨_, h, unhandled_haltException e s⟩⟩

end Sys2Proof.Machine
end

section
/-! SUPPORT. A trap over the two steps that raise and deliver it, and an interrupt over the two steps that take it and return from
it (R276, R350, R355, R360, R364, R365, R410). -/

namespace Sys2Proof.Machine

/-! ## What the next step reads of a state -/

section
variable {s t : State}

/-- S5 changes nothing under an unlimited budget with no breakpoint (R313). -/
theorem finishStep_of_unlimited (h : Unlimited s) : finishStep s = s := by
  obtain ⟨hbudget, hbp⟩ := h
  have hcount : countdown s = s := by
    have hleft : s.run.stepsLeft.map (fun n => n - 1) = s.run.stepsLeft := by rw [hbudget]; rfl
    rw [countdown, hleft]
  rcases finishStep_cases s with ⟨-, hf⟩ | ⟨-, hb, -⟩ | ⟨-, -, h1, -⟩ | ⟨-, -, -, hf⟩
  · exact hf
  · rw [hbp] at hb; cases hb
  · rw [hbudget] at h1; cases h1
  · rw [hf, hcount]

theorem Unlimited.of_run_eq (h : Unlimited s) (hr : t.run = s.run) : Unlimited t := ⟨hr ▸ h.budget, hr ▸ h.breakpoints⟩

theorem AboutToStep.of_same (h : AboutToStep s) (ha : t.agenda = s.agenda) (hr : t.run = s.run) : AboutToStep t :=
  ⟨ha.trans h.agenda, hr ▸ h.running, hr ▸ h.noStop, hr ▸ h.noPause⟩

theorem wordAt_of_sameMemory (h : SameMemory s t) (a : Word) : wordAt t a = wordAt s a := by
  have hb (b : Nat) : t.mem.read b = s.mem.read b := h b
  simp only [wordAt, hb]

/-- A fetch reads the parameters, the heap pointer and the bytes of memory (R94). -/
theorem fetch_of_sameMemory (hp : t.params = s.params) (hh : t.heapPtr = s.heapPtr) (hm : SameMemory s t) (a : Word) :
    fetch a t = fetch a s := by
  simp only [fetch, hp, hh, wordAt_of_sameMemory hm]

/-- The handler test reads the status, the vector and what a fetch reads (R360). -/
theorem handlerPresent_of_same (hu : t.csr.ustatus = s.csr.ustatus) (hv : t.csr.utvec = s.csr.utvec)
    (hp : t.params = s.params) (hh : t.heapPtr = s.heapPtr) (hm : SameMemory s t) : HandlerPresent t ↔ HandlerPresent s := by
  simp only [HandlerPresent, hu, hv, hp, hh, wordAt_of_sameMemory hm]

end

/-! ## Delivery (R360, R364) -/

/-- What an event leaves once trap entry has delivered it, to a handler or to the end of the run: it is saved, and no register,
byte or counter has changed. -/
structure Delivered (e : TrapEvent) (s t : State) : Prop where
  cause : t.csr.ucause = e.cause
  epc : t.csr.uepc = e.epc
  value : t.csr.utval = e.value
  registers : SameX s t
  fp : SameF s t
  memory : SameMemory s t
  counters : SameCounters s t
  controller : t.ctl = s.ctl

theorem Entered.delivered {e : TrapEvent} {s t : State} (h : Entered e s t) : Delivered e s t := by
  refine ⟨h.cause, h.epc, h.value, ?_, ?_, ?_, ?_, ?_⟩ <;> rw [h.rest]
  · exact fun _ => rfl
  · exact fun _ => rfl
  · exact fun _ => rfl
  · exact ⟨rfl, rfl, rfl⟩

theorem Entered.agenda {e : TrapEvent} {s t : State} (h : Entered e s t) : t.agenda = s.agenda := by rw [h.rest]

theorem Entered.run {e : TrapEvent} {s t : State} (h : Entered e s t) : t.run = s.run := by rw [h.rest]

theorem Unhandled.delivered {e : TrapEvent} {s t : State} (h : Unhandled e s t) : Delivered e s t :=
  ⟨h.cause, h.epc, h.value, h.registers, h.fp, h.memory, by constructor <;> rw [h.csrs], h.controller⟩

/-- A step of a core with an unlimited budget that finds an event trap entry does not refuse: the event is delivered, to the
handler if one is present and to the end of the run otherwise. -/
theorem step_delivers {s s' : State} {w : Word} {e : TrapEvent} (hs : AboutToStep s) (hu : Unlimited s)
    (hf : fetch s.pc s = .ok w) (hc : check s = .event e s')
    (hm : ¬(e.isInterrupt = true ∧ s'.csr.utvec &&& 0x3#32 ≠ 0#32)) :
    ∃ u, step s = .next u ∧ Delivered e s' u ∧ (HandlerPresent s' → Entered e s' u) ∧
      (¬HandlerPresent s' → Unhandled e s' u) := by
  have hrun : s'.run = s.run := by
    obtain ⟨-, h, -⟩ := check_event hc
    rw [h]
  obtain ⟨-, handled, unhandled⟩ := trapEntry e s'
  have ends {u : State} (hn : enterTrap e s' = .next u) (hend : finishStep u = u) : step s = .next u := by
    rw [step_of_fetch_ok hs hf, afterFetch_of_event hc, hn, onNext, hend]
  by_cases hh : HandlerPresent s'
  · obtain ⟨u, hn, he⟩ := handled hm hh
    have hend : finishStep u = u := finishStep_of_unlimited (hu.of_run_eq (he.run.trans hrun))
    exact ⟨u, ends hn hend, he.delivered, fun _ => he, fun ha => absurd hh ha⟩
  · obtain ⟨u, hn, he⟩ := unhandled hm hh
    have hend : finishStep u = u := finishStep_of_not_running (by rw [he.halted.state]; nofun)
    exact ⟨u, ends hn hend, he.delivered, fun hp => absurd hp hh, fun _ => he⟩

/-! ## Synchronous exceptions (R350, R355, R364, R410) -/

/-- The check after a raise finds the trap of the instruction that raised. -/
theorem check_of_raised {c v : Word} {s t : State} (h : Raised c v s t) :
    check t = .event ⟨false, c, v, s.pc⟩ (refreshUip { t with ctl := { t.ctl with trapPending := false } }) := by
  have hpc : t.ctl.trapPc = t.pc - 4#32 := by rw [h.trapPc, h.pc, BitVec.add_sub_cancel]
  rw [check_of_trap h.pending hpc, h.cause, h.value, h.trapPc]

theorem SameX.trans {s t u : State} (h : SameX s t) (k : SameX t u) : SameX s u := fun i => (k i).trans (h i)

theorem SameF.trans {s t u : State} (h : SameF s t) (k : SameF t u) : SameF s u := fun i => (k i).trans (h i)

theorem SameMemory.trans {s t u : State} (h : SameMemory s t) (k : SameMemory t u) : SameMemory s u :=
  fun a => (k a).trans (h a)

/-- Settles O41: the raising step ends where the word left it, and the next step's check finds its trap, which is no interrupt. -/
theorem faultsAreDeliveredPrecisely : Obligations.FaultsAreDeliveredPrecisely := by
  intro s s' w w' cause value t hs hu hn hf hf' hc hw hr
  obtain rfl : s' = refreshUip s := (check_nothing hc).2
  have hut : Unlimited t := hu.of_run_eq hr.runControl
  have hst : AboutToStep t := hs.of_same hr.agenda hr.runControl
  have hraise : step s = .next t := by
    rw [step_of_fetch_ok hs hf, afterFetch_of_nothing hc, hw, onNext, finishStep_of_unlimited hut]
  have hft : fetch t.pc t = .ok w' := by
    rw [fetch_of_sameMemory hr.parameters hr.heap hr.memory, hr.pc]
    exact hf'
  obtain ⟨u, hstep, hd, handled, unhandled⟩ := step_delivers hst hut hft (check_of_raised hr) nofun
  have hpresent : HandlerPresent (refreshUip { t with ctl := { t.ctl with trapPending := false } }) ↔ HandlerPresent s :=
    handlerPresent_of_same hr.csrs.ustatus hr.csrs.utvec hr.parameters hr.heap hr.memory
  have hcounters : SameCounters s u := ⟨hd.counters.cycle.trans hr.counters.cycle, hd.counters.time.trans hr.counters.time,
    hd.counters.instret.trans hr.counters.instret⟩
  refine ⟨u, hraise, hstep, hr.registers.trans hd.registers, hr.fp.trans hd.fp, hr.memory.trans hd.memory, hcounters,
    hd.cause, hd.epc, hd.value, by rw [hd.controller]; rfl, fun hp => ?handled, fun hp => ?unhandled⟩
  case handled =>
    have he := handled (hpresent.2 hp)
    refine ⟨hst.of_same he.agenda he.run, he.pc.trans ?_, he.status.trans ?_⟩
    · exact congrArg (· &&& 0xFFFFFFFC#32) hr.csrs.utvec
    · exact congrArg (fun v => (v &&& 0xFFFFFFFE#32) ||| 0x10#32) hr.csrs.ustatus
  case unhandled =>
    have he := unhandled (mt hpresent.1 hp)
    exact ⟨he.halted, he.record⟩

/-! ## Interrupts (R355, R360, R364, R276) -/

/-- An interrupt saves the address of the instruction it came before (R355). -/
theorem check_interrupt_epc {s s' : State} {e : TrapEvent} (h : check s = .event e s') (hi : e.isInterrupt = true) :
    e.epc = s.pc := by
  rcases check_cases s with ⟨-, -, hc⟩ | ⟨-, -, hc⟩ | ⟨-, -, -, -, hc⟩ | ⟨-, -, -, -, -, hc⟩ | ⟨-, -, -, -, -, -, hc⟩ |
    ⟨-, -, hc⟩ <;> rw [hc] at h <;> cases h
  · cases hi
  all_goals rfl

/-- With interrupts disabled and no trap pending no event qualifies (R354). -/
theorem noEvent_of_disabled {s : State} (hp : s.ctl.trapPending = false) (hu : s.csr.ustatus.getLsbD 0 = false) : NoEvent s :=
  ⟨hp, fun h => by rw [hu] at h; cases h⟩

/-- Two values of `ustatus` with the same protected bits, UIE and UPIE are one (R39). -/
theorem ustatus_ext {a b : Word} (hm : a &&& ustatusMask = b &&& ustatusMask) (h0 : a.getLsbD 0 = b.getLsbD 0)
    (h4 : a.getLsbD 4 = b.getLsbD 4) : a = b := by
  have hbits : ∀ i < 32, ustatusMask.getLsbD i = true ∨ i = 0 ∨ i = 4 := by decide
  refine BitVec.eq_of_getLsbD_eq fun i hi => ?_
  rcases hbits i hi with hp | rfl | rfl
  · have hb := congrArg (·.getLsbD i) hm
    simpa only [BitVec.getLsbD_and, hp, Bool.and_true] using hb
  · exact h0
  · exact h4

theorem handlerPresent_of_fetch {s : State} {w : Word} (hu : s.csr.ustatus.getLsbD 0 = true)
    (hf : fetch (s.csr.utvec &&& 0xFFFFFFFC#32) s = .ok w) (hw : w ≠ 0x00000000#32) : HandlerPresent s := by
  have hbase : fetch (handlerBase s) s = .ok w := hf
  refine (handlerPresent_iff s).1 ?_
  rw [handlerPresent, Bool.and_eq_true, hbase]
  exact ⟨hu, bne_iff_ne.2 hw⟩

/-- At a handler only UPIE is set, where the protected bits are 0 (R39, R360). -/
theorem Entered.ustatus {e : TrapEvent} {s t : State} (h : Entered e s t) (hs : s.csr.ustatus &&& ustatusMask = 0#32) :
    t.csr.ustatus = 0x10#32 := by
  rw [h.status]
  refine ustatus_ext ?_ ?_ ?_
  · have hm : 0xFFFFFFFE#32 &&& ustatusMask = ustatusMask := by decide
    rw [BitVec.and_or_distrib_right, BitVec.and_assoc, hm, hs, BitVec.zero_or]
  · simp
  · simp

/-- A step at a `URET` that no event comes before is the return (R276). -/
theorem step_of_uret {s : State} (hs : AboutToStep s) (hu : Unlimited s) (hn : NoEvent s)
    (hf : fetch s.pc s = .ok 0x00200073#32) :
    ∃ u, step s = .next u ∧ Completed s.csr.uepc (refreshUip s) u ∧ SameX s u ∧ SameMemory s u ∧
      u.csr.ustatus.getLsbD 0 = s.csr.ustatus.getLsbD 4 ∧ u.csr.ustatus.getLsbD 4 = s.params.uretUpieAfter ∧
      u.csr.ustatus &&& ustatusMask = s.csr.ustatus &&& ustatusMask := by
  obtain ⟨hd, u, he, h0, h4, hm, -, hx, hmem, hdone⟩ := uretReturns (refreshUip s)
  have hend : finishStep u = u := finishStep_of_unlimited (hu.of_run_eq hdone.system.runControl)
  refine ⟨u, ?_, hdone, hx, hmem, h0, h4, hm⟩
  rw [step_of_fetch_ok hs hf, afterFetch_of_nothing (check_of_noEvent hn), execWord_of_instr hd, he, onNext, hend]

/-- Settles O42: at the handler UIE is clear, so that no event comes before the `URET` there, and the return takes UIE back from
UPIE and `pc` from `uepc`. -/
theorem interruptsReturnToTheInterrupted : Obligations.InterruptsReturnToTheInterrupted := by
  intro s s' w e hs hu hinv hf hc hi hmode hhandler
  obtain ⟨hclear, hframe, henabled⟩ := check_event hc
  obtain ⟨c, ip, rfl⟩ : ∃ c ip, s' = { s with ctl := c, csr := { s.csr with uip := ip } } := ⟨_, _, hframe⟩
  obtain ⟨t, htake, hd, handled, -⟩ := step_delivers hs hu hf hc fun ⟨_, hne⟩ => hne hmode
  have he := handled (handlerPresent_of_fetch (henabled hi) hhandler (by decide))
  have hstatus : t.csr.ustatus = 0x10#32 := he.ustatus hinv.ustatusReserved
  have hquiet : NoEvent t := noEvent_of_disabled (by rw [hd.controller]; exact hclear) (by rw [hstatus]; rfl)
  have hfetch : fetch t.pc t = .ok 0x00200073#32 := by
    rw [he.pc, ← hhandler, he.rest]
    rfl
  have hst : AboutToStep t := hs.of_same he.agenda he.run
  obtain ⟨u, hreturn, hdone, hx, hmem, h0, h4, hreserved⟩ := step_of_uret hst (hu.of_run_eq he.run) hquiet hfetch
  have hparams : t.params = s.params := by rw [he.rest]
  refine ⟨t, u, htake, hreturn, he.pc, hd.epc.trans (check_interrupt_epc hc hi), { hd.counters with }, hd.cause, hd.value,
    hdone.pc.trans (hd.epc.trans (check_interrupt_epc hc hi)), ?status, hd.registers.trans hx, hd.fp.trans hdone.fp,
    hd.memory.trans hmem, hst.of_same hdone.system.agenda hdone.system.runControl⟩
  rw [hstatus] at h0 hreserved
  rw [hparams] at h4
  cases hb : s.params.uretUpieAfter <;> rw [hb] at h4 <;> exact ustatus_ext hreserved h0 h4

end Sys2Proof.Machine
end

section
/-! SUPPORT. Reset, loading and the memory configuration (R400 to R405, R61): what the registers, the CSRs, the memory and the
controller read as after a reset, the bytes an image leaves, and the step that takes each of the three commands. -/

namespace Sys2Proof.Machine

/-! ## What a reset core reads as (R61, R359, R400) -/

section
variable (s : State)

@[simp] theorem hostReset_params : (hostReset s).params = s.params := by
  obtain ⟨hp, -⟩ := hostReset_fields s
  exact hp

@[simp] theorem hostReset_agenda : (hostReset s).agenda = s.agenda := by
  obtain ⟨-, ha, -⟩ := hostReset_fields s
  exact ha

@[simp] theorem hostReset_pc : (hostReset s).pc = s.params.entryPc := by
  obtain ⟨-, -, -, hpc, -⟩ := hostReset_fields s
  exact hpc

@[simp] theorem hostReset_ctl : (hostReset s).ctl = controllerReset s.ctl := by
  obtain ⟨-, -, -, -, -, -, -, -, hctl, -⟩ := hostReset_fields s
  exact hctl

@[simp] theorem hostReset_csr : (hostReset s).csr = resetCsrs := (atReset_hostReset s).csrs

@[simp] theorem hostReset_mem : (hostReset s).mem = [] := (atReset_hostReset s).memory

@[simp] theorem hostReset_heapPtr : (hostReset s).heapPtr = s.params.memcfg.heapBase := by
  rw [(atReset_hostReset s).heap, hostReset_params]

theorem getX_hostReset (i : RegIdx) :
    (hostReset s).getX i =
      if i = 2#5 then s.params.memcfg.stackPointer else if i = 3#5 then s.params.memcfg.globalPointer else 0#32 := by
  rw [getX_of_resetRegisters (atReset_hostReset s).registers, hostReset_params]

@[simp] theorem getF_hostReset (i : RegIdx) : (hostReset s).getF i = 0#64 := by
  obtain ⟨-, -, -, -, hf, -⟩ := hostReset_fields s
  rw [State.getF, hf, Vector.getElem_replicate]

@[simp] theorem csrRead_hostReset (n : CsrNum) : csrRead n (hostReset s) = 0#32 := csrRead_of_resetCsrs (hostReset_csr s) n

@[simp] theorem byteAt_hostReset (a : Nat) : (hostReset s).byteAt a = 0#8 := by
  rw [State.byteAt, hostReset_mem]
  rfl

end

/-- Settles O50: the command's step is the reset, whose fields are those of R61. -/
theorem resetCommand : Obligations.ResetCommand := by
  intro s rest ha
  let s0 : State := { s with agenda := rest }
  have hr := atReset_hostReset s0
  have counters := hostReset_csr s0
  exact ⟨_, step_of_answered ha rfl, hostReset_agenda s0, hostReset_params s0, getX_hostReset s0, hostReset_pc s0,
    getF_hostReset s0, csrRead_hostReset s0, congrArg CsrFile.cycle64 counters, congrArg CsrFile.time64 counters,
    congrArg CsrFile.instret64 counters, byteAt_hostReset s0, hostReset_heapPtr s0, hostReset_ctl s0, hr.stopped, hr.noStop,
    hr.noPause⟩

/-! ## The bytes of an image (R404) -/

theorem Memory.read_writeImage_of_forall_ne {m : Memory} (hm : m.wf) {image : List (Word × Byte)} {a : Nat}
    (h : ∀ p ∈ image, p.1.toNat ≠ a) : (m.writeImage image).read a = m.read a := by
  induction image generalizing m with
  | nil => rfl
  | cons p image ih =>
    obtain ⟨hp, h⟩ := List.forall_mem_cons.mp h
    calc _ = (m.write p.1.toNat p.2).read a := ih (Memory.wf_write hm ..) h
      _ = m.read a := by rw [Memory.read_write hm, if_neg hp.symm]

/-- A byte of an image whose addresses differ is not written again (log 29). -/
theorem Memory.read_writeImage_of_mem {m : Memory} (hm : m.wf) {image : List (Word × Byte)} (hn : (image.map (·.1)).Nodup)
    {p : Word × Byte} (hp : p ∈ image) : (m.writeImage image).read p.1.toNat = p.2 := by
  induction image generalizing m with
  | nil => nomatch hp
  | cons q image ih =>
    obtain ⟨hq, hn⟩ := List.nodup_cons.mp hn
    rcases List.mem_cons.mp hp with rfl | hp
    · have hlater : ∀ r ∈ image, r.1.toNat ≠ p.1.toNat :=
        fun r hr he => hq (List.mem_map.mpr ⟨r, hr, BitVec.eq_of_toNat_eq he⟩)
      calc _ = (m.write p.1.toNat p.2).read p.1.toNat :=
            Memory.read_writeImage_of_forall_ne (Memory.wf_write hm ..) hlater
        _ = p.2 := by rw [Memory.read_write hm, if_pos rfl]
    · exact ih (Memory.wf_write hm ..) hn hp

@[simp] theorem loadImage_params (image : List (Word × Byte)) (entry : Word) (s : State) :
    (loadImage image entry s).params = { s.params with entryPc := entry } :=
  congrArg (fun p : Params => { p with entryPc := entry }) (hostReset_params s)

section
variable {image : List (Word × Byte)} (entry : Word) (s : State)

theorem byteAt_loadImage (a : Nat) : (loadImage image entry s).byteAt a = (Memory.writeImage [] image).read a :=
  congrArg (fun m : Memory => (m.writeImage image).read a) (hostReset_mem s)

theorem byteAt_loadImage_of_mem (hn : (image.map (·.1)).Nodup) {p : Word × Byte} (hp : p ∈ image) :
    (loadImage image entry s).byteAt p.1.toNat = p.2 :=
  (byteAt_loadImage entry s _).trans (Memory.read_writeImage_of_mem ⟨.nil, nofun⟩ hn hp)

theorem byteAt_loadImage_of_forall_ne {a : Nat} (h : ∀ p ∈ image, p.1.toNat ≠ a) :
    (loadImage image entry s).byteAt a = 0#8 :=
  (byteAt_loadImage entry s a).trans (Memory.read_writeImage_of_forall_ne ⟨.nil, nofun⟩ h)

end

/-! ## The commands given to a core (R404, R405) -/

section
variable {s : State}

theorem imageInSegments_iff (c : MemConfig) (image : List (Word × Byte)) :
    imageInSegments c image = true ↔ ∀ p ∈ image, segmentOf c c.heapBase p.1.toNat ≠ none := by
  simp only [← Bool.not_eq_false, imageInSegments_eq_false, not_exists, not_and, ne_eq]

theorem applyPort_load_of_running (h : s.run.runState = .running) (image : List (Word × Byte)) (entry : Word) :
    applyPort exec (.load image entry) s = answered (false, s) := if_pos ((isRunning_iff s).2 h)

theorem applyPort_load_of_idle {image : List (Word × Byte)} (h : s.run.runState ≠ .running)
    (hi : imageInSegments s.params.memcfg image = true) (entry : Word) :
    applyPort exec (.load image entry) s = answered (true, loadImage image entry s) :=
  (if_neg (mt (isRunning_iff s).1 h)).trans (if_pos hi)

theorem applyPort_setMemoryConfiguration_of_idle {c : MemConfig} (h : s.run.runState ≠ .running) (hc : wfConfig c = true) :
    applyPort exec (.setMemoryConfiguration c) s = answered (true, switchConfiguration c s) :=
  (if_neg (mt (isRunning_iff s).1 h)).trans (if_pos hc)

end

/-- Settles O51: a reset and the image's bytes over an empty memory, or the refusal, or the rejection of a RUNNING core. -/
theorem loadCommand : Obligations.LoadCommand := by
  intro s image entry rest ha
  let s0 : State := { s with agenda := rest }
  refine ⟨fun hidle hin hnodup => ?loads, fun hidle hout => ?refuses, fun hrun => ?rejects⟩
  case loads =>
    have hdo := applyPort_load_of_idle (s := s0) hidle ((imageInSegments_iff ..).2 hin) entry
    have hctl := hostReset_ctl s0
    exact ⟨_, step_of_answered ha hdo, hostReset_agenda s0, rfl, loadImage_params image entry s0,
      fun p => byteAt_loadImage_of_mem entry s0 hnodup, fun a => byteAt_loadImage_of_forall_ne entry s0,
      (atReset_hostReset s0).stopped, hostReset_heapPtr s0, congrArg Controller.extPending hctl,
      congrArg Controller.tmrPending hctl, congrArg Controller.trapPending hctl, csrRead_hostReset s0, getX_hostReset s0,
      getF_hostReset s0⟩
  case refuses => exact step_of_hostRefused (.image image entry rest hidle ha ((imageInSegments_eq_false ..).2 hout))
  case rejects => exact step_of_answered ha (applyPort_load_of_running (s := s0) hrun image entry)

/-- Settles O52: the command is a reset of the core with the new configuration and its entry among the parameters. -/
theorem configurationSwitch : Obligations.ConfigurationSwitch := by
  intro s c rest ha hidle hc
  let s0 : State := { s with agenda := rest, params := { s.params with memcfg := c, entryPc := c.textBase } }
  have hr := atReset_hostReset s0
  have hdo := applyPort_setMemoryConfiguration_of_idle (s := { s with agenda := rest }) hidle hc
  exact ⟨_, step_of_answered ha hdo, hostReset_agenda s0, hostReset_params s0, getX_hostReset s0, hostReset_pc s0,
    byteAt_hostReset s0, hostReset_heapPtr s0, getF_hostReset s0, csrRead_hostReset s0, hr.stopped, hr.noStop, hr.noPause,
    hostReset_ctl s0⟩

end Sys2Proof.Machine
end

section
/-! SUPPORT. Words laid out in memory byte by byte (R86, R130) and given to the decoder. -/

namespace Sys2Proof.Machine

/-- The bytes of a word, the lowest first, are the word again (R86). -/
theorem leWord_extractLsb' (w : Word) :
    leWord (w.extractLsb' 0 8) (w.extractLsb' 8 8) (w.extractLsb' 16 8) (w.extractLsb' 24 8) = w := by
  rw [leWord, BitVec.extractLsb'_append_extractLsb'_eq_extractLsb' (by decide),
    BitVec.extractLsb'_append_extractLsb'_eq_extractLsb' (by decide),
    BitVec.extractLsb'_append_extractLsb'_eq_extractLsb' (by decide)]
  exact BitVec.extractLsb'_eq_self

/-- The word an instruction encodes to decodes to it, through its bytes in memory. -/
theorem decodeTableWord_of_encode {i : Instr} {n : Nat} (hi : i.wellFormed = true) (hn : (encode i).toNat = n) :
    decodeTableWord 32 n = some i := by
  have hv : BitVec.ofNat 32 (n % 2 ^ 32) = encode i := by
    rw [← hn, Nat.mod_eq_of_lt (encode i).isLt, BitVec.ofNat_toNat, BitVec.setWidth_eq]
  simp only [decodeTableWord, decodeBytes, hv, leWord_extractLsb', decodeEncodeRoundTrip i hi]

/-- Settles O6: each word is the encoding of its instruction, which is well-formed. -/
theorem spelledWordsDecode : Obligations.SpelledWordsDecode := by
  unfold Obligations.SpelledWordsDecode
  and_intros <;> exact decodeTableWord_of_encode rfl rfl

end Sys2Proof.Machine
end
